-- ==== Sys2Proof/Word.lean ====
section
/-! DEFINITION. The word types of SMCORE (00_scope.md R6, R9): register words, 256-bit operands, register
indices. -/

namespace Sys2Proof

/-- A 32-bit word: the width of the host port and of every register access (R6, BUSW). -/
abbrev Word := BitVec 32

/-- A 256-bit unsigned operand (R6, NBITS; R20). -/
abbrev Big := BitVec 256

/-- One byte of a byte string (R9). -/
abbrev Byte := BitVec 8

/-- An index of a big-number register V0..V15 (R20). -/
abbrev VReg := Fin 16

/-- An index of a point register P0..P7 (R22). -/
abbrev PReg := Fin 8

/-- The LEN operand of SM3FIN, a byte count 0..63 (R90). -/
abbrev Len := Fin 64

end Sys2Proof
end

