-- ==== Sys2Proof/Config.lean ====
section
/-! DEFINITION. What a platform or an implementation fixes (00_scope.md R7): the place of the register window,
and the free outcome of an EC command on invalid inputs. -/

namespace Sys2Proof

/-- A point of the curve group: the point at infinity O, or an affine pair (42_ec_point.md R150). The pair may be
any two 256-bit values; whether it lies on a curve is `Machine.validPoint`'s question. -/
inductive Point where
  | inf
  | affine (x y : Big)
  deriving DecidableEq, Repr, Inhabited

/-- What an EC command may do on invalid inputs (R155): (a) succeed with some point, (b) ERR = 2, (c) ERR = 3. -/
inductive EcDraw where
  | success (r : Point)
  | modZero
  | notInvertible
  deriving DecidableEq, Repr, Inhabited

namespace Config

/-- EC_DRAW (R7, R155, U1), a FREE VALUE: the outcome of the n-th EC command that met invalid inputs. It has no
body, so nothing can be proved about which outcome it is (assumption log 3). -/
opaque ecDraw : Nat → EcDraw

/-- CORE_BASE / 4096 (R7, U3), fixed by the platform and left open (assumption log 6). -/
opaque corePage : Nat

/-- CORE_BASE, the 4 KiB aligned host address of the register window (R7, R61). -/
def coreBase : Nat := 4096 * corePage

end Config

end Sys2Proof
end

