-- ==== Sys2Proof/Syntax.lean ====
section
/-! DEFINITION. The commands of SMCORE, one constructor per row of spec/opcode_table.json (30_encoding.md R93).
An operand's type is its class (R91): `VReg` names a V register, `PReg` a point register, `Len` is SM3FIN's byte
count, so no operand can be outside its class. -/

namespace Sys2Proof

/-- A command of the set SMCORE-1 (R2, R93), its operands in the order of R93's assembler form. -/
inductive Instr where
  | nop
  | madd (vd va vb vm : VReg)
  | msub (vd va vb vm : VReg)
  | mmul (vd va vb vm : VReg)
  | mred (vd va vm : VReg)
  | minv (vd va vm : VReg)
  | mexp (vd va ve vm : VReg)
  | ecadd (pd p1 p2 : PReg)
  | ecdbl (pd p1 : PReg)
  | ecmul (pd p1 : PReg) (vk : VReg)
  | ecchk (p1 : PReg)
  | ecldsm2 (pd : PReg)
  | sm3init
  | sm3blk
  | sm3fin (len : Len)
  | sm4key
  | sm4enc
  | sm4dec
  deriving DecidableEq, Repr

end Sys2Proof
end

