-- ==== Sys2Proof/WellFormed.lean ====
section
/-! DEFINITION. The assembler's check of a written command (30_encoding.md R97): the operands of a form must be as
many as R93 says, each of its class, and each within its range. What passes is an `Instr`. -/

namespace Sys2Proof

/-- An operand as an assembler reads it (R97): `vN`, `pN` or `#len`, with any number. -/
inductive AsmOperand where
  | v (n : Nat)
  | p (n : Nat)
  | imm (n : Nat)
  deriving DecidableEq, Repr

/-- The mnemonics of R93. -/
inductive Mnemonic where
  | NOP | MADD | MSUB | MMUL | MRED | MINV | MEXP
  | ECADD | ECDBL | ECMUL | ECCHK | ECLDSM2
  | SM3INIT | SM3BLK | SM3FIN
  | SM4KEY | SM4ENC | SM4DEC
  deriving DecidableEq, Repr

/-- A command as written, before any check. -/
structure AsmForm where
  mnemonic : Mnemonic
  operands : List AsmOperand
  deriving DecidableEq, Repr

/-- Why an assembler rejects a form (R97). -/
inductive AsmError where
  /-- the operands are not as many as, or not of the classes that, R93's assembler form has -/
  | operandForm
  /-- a V register above v15 -/
  | vRange
  /-- a point register above p7 -/
  | pRange
  /-- a LEN above 63 -/
  | lenRange
  deriving DecidableEq, Repr

/-- A V register index within v0..v15 (R97). -/
def asmV (n : Nat) : Except AsmError VReg :=
  if h : n < 16 then .ok ⟨n, h⟩ else .error .vRange

/-- A point register index within p0..p7 (R97). -/
def asmP (n : Nat) : Except AsmError PReg :=
  if h : n < 8 then .ok ⟨n, h⟩ else .error .pRange

/-- A LEN within 0..63 (R97). -/
def asmLen (n : Nat) : Except AsmError Len :=
  if h : n < 64 then .ok ⟨n, h⟩ else .error .lenRange

/-- The command a written form stands for, or the check that refuses it (R93's assembler forms, R97). -/
def assemble : AsmForm → Except AsmError Instr
  | ⟨.NOP, []⟩ => .ok .nop
  | ⟨.MADD, [.v d, .v a, .v b, .v m]⟩ => do return .madd (← asmV d) (← asmV a) (← asmV b) (← asmV m)
  | ⟨.MSUB, [.v d, .v a, .v b, .v m]⟩ => do return .msub (← asmV d) (← asmV a) (← asmV b) (← asmV m)
  | ⟨.MMUL, [.v d, .v a, .v b, .v m]⟩ => do return .mmul (← asmV d) (← asmV a) (← asmV b) (← asmV m)
  | ⟨.MRED, [.v d, .v a, .v m]⟩ => do return .mred (← asmV d) (← asmV a) (← asmV m)
  | ⟨.MINV, [.v d, .v a, .v m]⟩ => do return .minv (← asmV d) (← asmV a) (← asmV m)
  | ⟨.MEXP, [.v d, .v a, .v e, .v m]⟩ => do return .mexp (← asmV d) (← asmV a) (← asmV e) (← asmV m)
  | ⟨.ECADD, [.p d, .p i, .p j]⟩ => do return .ecadd (← asmP d) (← asmP i) (← asmP j)
  | ⟨.ECDBL, [.p d, .p i]⟩ => do return .ecdbl (← asmP d) (← asmP i)
  | ⟨.ECMUL, [.p d, .p i, .v k]⟩ => do return .ecmul (← asmP d) (← asmP i) (← asmV k)
  | ⟨.ECCHK, [.p i]⟩ => do return .ecchk (← asmP i)
  | ⟨.ECLDSM2, [.p d]⟩ => do return .ecldsm2 (← asmP d)
  | ⟨.SM3INIT, []⟩ => .ok .sm3init
  | ⟨.SM3BLK, []⟩ => .ok .sm3blk
  | ⟨.SM3FIN, [.imm n]⟩ => do return .sm3fin (← asmLen n)
  | ⟨.SM4KEY, []⟩ => .ok .sm4key
  | ⟨.SM4ENC, []⟩ => .ok .sm4enc
  | ⟨.SM4DEC, []⟩ => .ok .sm4dec
  | _ => .error .operandForm

/-- A written form is well formed when the assembler takes it. -/
def AsmForm.wellFormed (a : AsmForm) : Bool := (assemble a).isOk

/-- The written form of a command (R93): every command has one, and it is well formed. -/
def disassemble : Instr → AsmForm
  | .nop => ⟨.NOP, []⟩
  | .madd d a b m => ⟨.MADD, [.v d, .v a, .v b, .v m]⟩
  | .msub d a b m => ⟨.MSUB, [.v d, .v a, .v b, .v m]⟩
  | .mmul d a b m => ⟨.MMUL, [.v d, .v a, .v b, .v m]⟩
  | .mred d a m => ⟨.MRED, [.v d, .v a, .v m]⟩
  | .minv d a m => ⟨.MINV, [.v d, .v a, .v m]⟩
  | .mexp d a e m => ⟨.MEXP, [.v d, .v a, .v e, .v m]⟩
  | .ecadd d i j => ⟨.ECADD, [.p d, .p i, .p j]⟩
  | .ecdbl d i => ⟨.ECDBL, [.p d, .p i]⟩
  | .ecmul d i k => ⟨.ECMUL, [.p d, .p i, .v k]⟩
  | .ecchk i => ⟨.ECCHK, [.p i]⟩
  | .ecldsm2 d => ⟨.ECLDSM2, [.p d]⟩
  | .sm3init => ⟨.SM3INIT, []⟩
  | .sm3blk => ⟨.SM3BLK, []⟩
  | .sm3fin n => ⟨.SM3FIN, [.imm n]⟩
  | .sm4key => ⟨.SM4KEY, []⟩
  | .sm4enc => ⟨.SM4ENC, []⟩
  | .sm4dec => ⟨.SM4DEC, []⟩

/-- A command is well formed when its written form is. The operand types of `Instr` carry R97's ranges, so this
holds of every command; what can be ill formed is an `AsmForm` or a command word (`Decode.lean`). -/
def Instr.wellFormed (i : Instr) : Bool := (disassemble i).wellFormed

end Sys2Proof
end

