-- ==== Sys2Proof/Decode.lean ====
section
/-! DEFINITION. The command word (30_encoding.md): its fields (R90), the decoder, total on all 2^32 words and
rejecting by name (R92 to R96), the encoder (R97), and R92's masks with R94's legality test beside them. -/

namespace Sys2Proof

/-! ### Fields of the command word (R90) -/

/-- OP, bits 7:0. -/
def opOf (w : Word) : BitVec 8 := w.extractLsb' 0 8

/-- RD, bits 11:8. -/
def rdOf (w : Word) : BitVec 4 := w.extractLsb' 8 4

/-- RS1, bits 15:12. -/
def rs1Of (w : Word) : BitVec 4 := w.extractLsb' 12 4

/-- RS2, bits 19:16. -/
def rs2Of (w : Word) : BitVec 4 := w.extractLsb' 16 4

/-- RS3, bits 23:20. -/
def rs3Of (w : Word) : BitVec 4 := w.extractLsb' 20 4

/-- LEN, bits 29:24. -/
def lenOf (w : Word) : BitVec 6 := w.extractLsb' 24 6

/-- RSV, bits 31:30. -/
def rsvOf (w : Word) : BitVec 2 := w.extractLsb' 30 2

/-! ### The decoder -/

/-- Why a command word is illegal (R94, R95). Each of them completes with ERR = 1. -/
inductive Illegal where
  /-- bits 31:30 are not 00 -/
  | reservedBits
  /-- OP is not listed in R93 -/
  | reservedOp
  /-- a field the format does not use is not zero -/
  | unusedField
  /-- a point field has its top bit set: "p8" and above -/
  | pointRange
  deriving DecidableEq, Repr

/-- A V-index field names V[field] (R91). -/
def vField (f : BitVec 4) : VReg := ⟨f.toNat, f.isLt⟩

/-- A point-index field names P[field], its top bit 0 (R91, R94). -/
def pField (f : BitVec 4) : Except Illegal PReg :=
  if h : f.toNat < 8 then .ok ⟨f.toNat, h⟩ else .error .pointRange

/-- LEN, zero-extended (R91). -/
def lenField (f : BitVec 6) : Len := ⟨f.toNat, f.isLt⟩

/-- The fields a format does not use must be zero (R92); `k` is the command when they are. -/
def whenUnusedZero (unusedZero : Bool) (k : Except Illegal Instr) : Except Illegal Instr :=
  if unusedZero then k else .error .unusedField

/-- Format N: no operand field (R92). -/
def formatN (w : Word) (i : Instr) : Except Illegal Instr :=
  whenUnusedZero (rdOf w == 0 && rs1Of w == 0 && rs2Of w == 0 && rs3Of w == 0 && lenOf w == 0) (.ok i)

/-- Format M4: RD, RS1, RS2, RS3 are V indices (R92). -/
def formatM4 (w : Word) (mk : VReg → VReg → VReg → VReg → Instr) : Except Illegal Instr :=
  whenUnusedZero (lenOf w == 0)
    (.ok (mk (vField (rdOf w)) (vField (rs1Of w)) (vField (rs2Of w)) (vField (rs3Of w))))

/-- Format M3: RD, RS1, RS3 are V indices (R92). -/
def formatM3 (w : Word) (mk : VReg → VReg → VReg → Instr) : Except Illegal Instr :=
  whenUnusedZero (rs2Of w == 0 && lenOf w == 0)
    (.ok (mk (vField (rdOf w)) (vField (rs1Of w)) (vField (rs3Of w))))

/-- Format E3: RD, RS1, RS2 are point indices (R92). -/
def formatE3 (w : Word) (mk : PReg → PReg → PReg → Instr) : Except Illegal Instr :=
  whenUnusedZero (rs3Of w == 0 && lenOf w == 0)
    (do return mk (← pField (rdOf w)) (← pField (rs1Of w)) (← pField (rs2Of w)))

/-- Format E2: RD, RS1 are point indices (R92). -/
def formatE2 (w : Word) (mk : PReg → PReg → Instr) : Except Illegal Instr :=
  whenUnusedZero (rs2Of w == 0 && rs3Of w == 0 && lenOf w == 0)
    (do return mk (← pField (rdOf w)) (← pField (rs1Of w)))

/-- Format EK: RD, RS1 are point indices, RS2 a V index (R92). -/
def formatEK (w : Word) (mk : PReg → PReg → VReg → Instr) : Except Illegal Instr :=
  whenUnusedZero (rs3Of w == 0 && lenOf w == 0)
    (do return mk (← pField (rdOf w)) (← pField (rs1Of w)) (vField (rs2Of w)))

/-- Format ES: RS1 is a point index (R92). -/
def formatES (w : Word) (mk : PReg → Instr) : Except Illegal Instr :=
  whenUnusedZero (rdOf w == 0 && rs2Of w == 0 && rs3Of w == 0 && lenOf w == 0)
    (do return mk (← pField (rs1Of w)))

/-- Format ED: RD is a point index (R92). -/
def formatED (w : Word) (mk : PReg → Instr) : Except Illegal Instr :=
  whenUnusedZero (rs1Of w == 0 && rs2Of w == 0 && rs3Of w == 0 && lenOf w == 0)
    (do return mk (← pField (rdOf w)))

/-- Format L: LEN is a byte count (R92). -/
def formatL (w : Word) (mk : Len → Instr) : Except Illegal Instr :=
  whenUnusedZero (rdOf w == 0 && rs1Of w == 0 && rs2Of w == 0 && rs3Of w == 0)
    (.ok (mk (lenField (lenOf w))))

/-- The command a word stands for, or why it is illegal (R93, R94). The order of the checks chooses only among the
reasons: every one of them completes with ERR = 1. -/
def decode (w : Word) : Except Illegal Instr :=
  if rsvOf w ≠ 0 then .error .reservedBits
  else match (opOf w).toNat with
    | 0x00 => formatN w .nop
    | 0x01 => formatM4 w .madd
    | 0x02 => formatM4 w .msub
    | 0x03 => formatM4 w .mmul
    | 0x04 => formatM3 w .mred
    | 0x05 => formatM3 w .minv
    | 0x06 => formatM4 w .mexp
    | 0x10 => formatE3 w .ecadd
    | 0x11 => formatE2 w .ecdbl
    | 0x12 => formatEK w .ecmul
    | 0x13 => formatES w .ecchk
    | 0x14 => formatED w .ecldsm2
    | 0x20 => formatN w .sm3init
    | 0x21 => formatN w .sm3blk
    | 0x22 => formatL w .sm3fin
    | 0x30 => formatN w .sm4key
    | 0x31 => formatN w .sm4enc
    | 0x32 => formatN w .sm4dec
    | _ => .error .reservedOp

/-! ### The encoder -/

/-- `OP | RD<<8 | RS1<<12 | RS2<<16 | RS3<<20 | LEN<<24` (R97), its fields given as numbers within their widths. -/
def packFields (op rd rs1 rs2 rs3 len : Nat) : Word :=
  BitVec.ofNat 32 (op + rd * 2 ^ 8 + rs1 * 2 ^ 12 + rs2 * 2 ^ 16 + rs3 * 2 ^ 20 + len * 2 ^ 24)

/-- The word of a command: each operand in the field its format assigns, every other field zero (R92, R93, R97). -/
def encode : Instr → Word
  | .nop => packFields 0x00 0 0 0 0 0
  | .madd d a b m => packFields 0x01 d a b m 0
  | .msub d a b m => packFields 0x02 d a b m 0
  | .mmul d a b m => packFields 0x03 d a b m 0
  | .mred d a m => packFields 0x04 d a 0 m 0
  | .minv d a m => packFields 0x05 d a 0 m 0
  | .mexp d a e m => packFields 0x06 d a e m 0
  | .ecadd d i j => packFields 0x10 d i j 0 0
  | .ecdbl d i => packFields 0x11 d i 0 0 0
  | .ecmul d i k => packFields 0x12 d i k 0 0
  | .ecchk i => packFields 0x13 0 i 0 0 0
  | .ecldsm2 d => packFields 0x14 d 0 0 0 0
  | .sm3init => packFields 0x20 0 0 0 0 0
  | .sm3blk => packFields 0x21 0 0 0 0 0
  | .sm3fin n => packFields 0x22 0 0 0 0 n
  | .sm4key => packFields 0x30 0 0 0 0 0
  | .sm4enc => packFields 0x31 0 0 0 0 0
  | .sm4dec => packFields 0x32 0 0 0 0 0

/-! ### Masks and legality (R92, R94) -/

/-- A row of R93: the opcode value, which is the row's match, and the mask of its format (R92). -/
structure OpcodeRow where
  mnemonic : Mnemonic
  op : Word
  mask : Word
  deriving DecidableEq, Repr

/-- The opcode map of R93 with the masks of R92. -/
def opcodeRows : List OpcodeRow :=
  [ ⟨.NOP, 0x00, 0xFFFFFFFF⟩, ⟨.MADD, 0x01, 0xFF0000FF⟩, ⟨.MSUB, 0x02, 0xFF0000FF⟩,
    ⟨.MMUL, 0x03, 0xFF0000FF⟩, ⟨.MRED, 0x04, 0xFF0F00FF⟩, ⟨.MINV, 0x05, 0xFF0F00FF⟩,
    ⟨.MEXP, 0x06, 0xFF0000FF⟩, ⟨.ECADD, 0x10, 0xFFF888FF⟩, ⟨.ECDBL, 0x11, 0xFFFF88FF⟩,
    ⟨.ECMUL, 0x12, 0xFFF088FF⟩, ⟨.ECCHK, 0x13, 0xFFFF8FFF⟩, ⟨.ECLDSM2, 0x14, 0xFFFFF8FF⟩,
    ⟨.SM3INIT, 0x20, 0xFFFFFFFF⟩, ⟨.SM3BLK, 0x21, 0xFFFFFFFF⟩, ⟨.SM3FIN, 0x22, 0xC0FFFFFF⟩,
    ⟨.SM4KEY, 0x30, 0xFFFFFFFF⟩, ⟨.SM4ENC, 0x31, 0xFFFFFFFF⟩, ⟨.SM4DEC, 0x32, 0xFFFFFFFF⟩ ]

/-- The rows of R93 that a word matches: `c & mask = OP` (R94). -/
def matchingRows (c : Word) : List OpcodeRow := opcodeRows.filter fun r => c &&& r.mask == r.op

/-- R94's legality: some row of R93 matches. -/
def legal (c : Word) : Bool := opcodeRows.any fun r => c &&& r.mask == r.op

/-- The decoder on a row of spec/opcode_table.json: the word `w` of `nbits` bits, every bit above them 0. -/
def decodeTableWord (nbits w : Nat) : Option Instr :=
  (decode (BitVec.ofNat 32 (w % 2 ^ nbits))).toOption

end Sys2Proof
end

