-- ==== Sys2Proof/Machine/State.lean ====
section
/-! DEFINITION. The architectural state of SMCORE (10_state.md), the events its ports carry (20_memory.md R60), the
window's registers (R62), the ways a step can end, and the state right after reset (70_reset_and_hazards.md R271). -/

namespace Sys2Proof.Machine

/-- Whether a host access reads or writes (R60). -/
inductive AccessKind where
  | read
  | write
  deriving DecidableEq, Repr

/-- One host access at the transaction level (R60): its kind, the byte offset in the window, the write strobes and
the write data. A read's strobes and data mean nothing (R63). -/
structure Access where
  kind : AccessKind
  off : BitVec 12
  strb : BitVec 4
  data : Word
  deriving DecidableEq, Repr

/-- What can happen at a step, in the order it happens (R8, R60): a host access, the engine's turn, or the level
that the reset pin rst_n takes. The list of them in `State.inputs` is the whole of SMCORE's environment; where the
engine's turns stand among the accesses is the interleaving, which the spec leaves free (assumption log 1). -/
inductive Input where
  | access (a : Access)
  | engine
  | rstPin (level : Bool)
  deriving DecidableEq, Repr

/-- The four curve parameter registers (R24). -/
inductive CurveReg where
  | cp | ca | cb | cn
  deriving DecidableEq, Repr

/-- A 32-bit register of the window (R62), a word of a wide register counted from its lowest offset. -/
inductive Reg where
  | id | cmd | status | ctrl | pinf | sm3Ctl | sm3CntHi | sm3CntLo
  | v (i : VReg) (j : Fin 8)
  | curve (c : CurveReg) (j : Fin 8)
  | sm3V (i : Fin 8)
  | sm3Buf (j : Fin 16)
  | sm4Key (i : Fin 4)
  | sm4Din (i : Fin 4)
  | sm4Dout (i : Fin 4)
  | sm4Rk (i : Fin 32)
  deriving DecidableEq, Repr

/-- The state of SMCORE. Every field is plain data; every field but the last four is a register or flag of
10_state.md. P0..P7 are a view of `v` and `pinf` (R22), ID is a constant (R27), irq a function of the state (R36). -/
structure State where
  /-- V0..V15 (R20) -/
  v : Vector Big 16
  /-- PINF.INF[7:0], bit k the infinity flag of Pk (R23) -/
  pinf : BitVec 8
  /-- CP, the field prime p (R24) -/
  cp : Big
  /-- CA, the coefficient a (R24) -/
  ca : Big
  /-- CB, the coefficient b (R24) -/
  cb : Big
  /-- CN, the group order n, which no command reads (R24) -/
  cn : Big
  /-- SM3_V[0..7], the running hash (R25) -/
  sm3V : Vector Word 8
  /-- SM3_BUF[0..15], the message block buffer (R26) -/
  sm3Buf : Vector Word 16
  /-- SM3_CTL.ACTIVE, also seen as STATUS.SM3ACT (R31, R29) -/
  sm3Active : Bool
  /-- SM3_CNT, the total byte counter (R31) -/
  sm3Cnt : BitVec 64
  /-- SM4_KEY[0..3] (R33) -/
  sm4Key : Vector Word 4
  /-- SM4_DIN[0..3] (R33) -/
  sm4Din : Vector Word 4
  /-- SM4_DOUT[0..3] (R33) -/
  sm4Dout : Vector Word 4
  /-- SM4_RK[0..31] (R34) -/
  sm4Rk : Vector Word 32
  /-- STATUS.KEYVALID (R29, R34) -/
  keyValid : Bool
  /-- STATUS.BUSY (R29) -/
  busy : Bool
  /-- STATUS.DONE (R29) -/
  done : Bool
  /-- STATUS.AERR (R29) -/
  aerr : Bool
  /-- STATUS.ERR (R29, R241) -/
  err : BitVec 4
  /-- STATUS.CHK: bit 0 NOT_INF, bit 1 RANGE_OK, bit 2 ON_CURVE (R29, R159) -/
  chk : BitVec 3
  /-- CTRL.IE (R30) -/
  ie : Bool
  /-- CMDL, the command latch (R28, R35) -/
  cmdl : Word
  /-- PEND, a command is in flight (R35) -/
  pend : Bool
  /-- the level of the pin rst_n (R60, R272) -/
  rstN : Bool
  /-- the model's own: the events still to come (assumption log 1) -/
  inputs : List Input
  /-- the model's own: what the last step answered to a host read, if it performed one (R60 rdata, R64;
  assumption log 2) -/
  reply : Option Word
  /-- the model's own: how many EC draws have been taken (R155; assumption log 3) -/
  draws : Nat
  deriving DecidableEq, Repr

/-- Why the machine would stop with a fault: NOTHING stops SMCORE. A failing command completes with a code and a
failing access sets AERR; there is no machine check and no lock-up (60_exceptions.md R240). So there is no
constructor, and no step of this model can end in a fault. -/
inductive Fault where
  deriving DecidableEq, Repr

/-- Why a step could be refused. -/
inductive Refusal where
  /-- Raised by an arm of `exec` whose instruction has no meaning yet; every instruction of this model has one, so
  no arm raises it. Safe: a refused step proves nothing about the hardware. -/
  | notModelled (mnemonic : String)
  deriving DecidableEq, Repr

/-- The machine right after reset (R271, R273, R39): every register 0, nothing in flight, the reset pin released.
`inputs`, `reply` and `draws` are the model's own fields (assumption logs 1 to 3). -/
def State.reset : State where
  v := Vector.replicate 16 0
  pinf := 0
  cp := 0
  ca := 0
  cb := 0
  cn := 0
  sm3V := Vector.replicate 8 0
  sm3Buf := Vector.replicate 16 0
  sm3Active := false
  sm3Cnt := 0
  sm4Key := Vector.replicate 4 0
  sm4Din := Vector.replicate 4 0
  sm4Dout := Vector.replicate 4 0
  sm4Rk := Vector.replicate 32 0
  keyValid := false
  busy := false
  done := false
  aerr := false
  err := 0
  chk := 0
  ie := false
  cmdl := 0
  pend := false
  rstN := true
  inputs := []
  reply := none
  draws := 0

end Sys2Proof.Machine
end

