-- ==== Sys2Proof/Machine/Operands.lean ====
section
/-! DEFINITION. Operand forms: the V registers (10_state.md R20), the point registers as a view of them (R22) and
the write of a point result (42_ec_point.md R154), the words of a 256-bit register (R21, R68), the bytes of a
32-bit word (20_memory.md R69). -/

namespace Sys2Proof.Machine

/-! ### V registers -/

/-- `V[i] <- x`. -/
def State.setV (s : State) (i : VReg) (x : Big) : State := { s with v := s.v.set i x }

/-- The number held in `V[i]`, which a command reads as an operand (R130). -/
def vNat (s : State) (i : VReg) : Nat := s.v[i].toNat

/-! ### Point registers -/

/-- The x coordinate register of Pk is V[2k] (R22). -/
def xReg (k : PReg) : VReg := ⟨2 * k, by omega⟩

/-- The y coordinate register of Pk is V[2k+1] (R22). -/
def yReg (k : PReg) : VReg := ⟨2 * k + 1, by omega⟩

/-- PINF.INF[k] (R23). -/
def infBit (s : State) (k : PReg) : Bool := s.pinf.getLsbD k

/-- PINF with INF[k] set to `b`, its other bits as before (R154). -/
def setInfBit (p : BitVec 8) (k : PReg) (b : Bool) : BitVec 8 :=
  if b then p ||| (1#8 <<< k.val) else p &&& ~~~(1#8 <<< k.val)

/-- The point that Pk holds (R22): O when INF[k] = 1, its coordinates ignored; else the affine point. -/
def readPoint (s : State) (k : PReg) : Point :=
  if infBit s k then .inf else .affine s.v[xReg k] s.v[yReg k]

/-- The x coordinate a point result writes: 0 for O (R154). -/
def pointX : Point → Big
  | .inf => 0
  | .affine x _ => x

/-- The y coordinate a point result writes: 0 for O (R154). -/
def pointY : Point → Big
  | .inf => 0
  | .affine _ y => y

/-- The infinity flag a point result writes (R154). -/
def pointInf : Point → Bool
  | .inf => true
  | .affine _ _ => false

/-- `WritePoint(k, R)` (R154). -/
def writePoint (s : State) (k : PReg) (r : Point) : State :=
  { s with
    v := (s.v.set (xReg k) (pointX r)).set (yReg k) (pointY r)
    pinf := setInfBit s.pinf k (pointInf r) }

/-! ### Words of a 256-bit register -/

/-- Word j of a 256-bit register, word 0 the most significant (R21, R68). -/
def getWord (x : Big) (j : Fin 8) : Word := x.extractLsb' (32 * (7 - j.val)) 32

/-- A 256-bit register with word j replaced (R21, R68). -/
def setWord (x : Big) (j : Fin 8) (w : Word) : Big :=
  (x &&& ~~~((BitVec.allOnes 32).setWidth 256 <<< (32 * (7 - j.val)))) |||
    (w.setWidth 256 <<< (32 * (7 - j.val)))

/-! ### Bytes of a word -/

/-- Byte t of a word, byte 0 the most significant (R69). -/
def byteOf (w : Word) (t : Fin 4) : Byte := w.extractLsb' (8 * (3 - t.val)) 8

/-- The word of four bytes, the first the most significant (R69). -/
def wordOf (b0 b1 b2 b3 : Byte) : Word := b0 ++ b1 ++ b2 ++ b3

/-- The four bytes of a word in order (R69). -/
def bytesOf (w : Word) : List Byte := [byteOf w 0, byteOf w 1, byteOf w 2, byteOf w 3]

end Sys2Proof.Machine
end

