-- ==== Sys2Proof/Machine/Flags.lean ====
section
/-! DEFINITION. STATUS and CTRL as the host reads them (10_state.md R29, R30), the command error codes
(60_exceptions.md R241), the bits ECCHK writes (42_ec_point.md R159), and the interrupt output (R36). SMCORE has no
other flags (R38). -/

namespace Sys2Proof.Machine

/-- Why a command fails (R241). -/
inductive CmdError where
  /-- the latched word is illegal -/
  | illegal
  /-- the modulus is 0 -/
  | modZero
  /-- no inverse exists -/
  | notInvertible
  /-- SM3BLK or SM3FIN while ACTIVE = 0 -/
  | sm3Seq
  /-- SM4ENC or SM4DEC while KEYVALID = 0 -/
  | sm4NoKey
  deriving DecidableEq, Repr

/-- The value of STATUS.ERR that reports an error (R241). -/
def errValue : CmdError → BitVec 4
  | .illegal => 1
  | .modZero => 2
  | .notInvertible => 3
  | .sm3Seq => 4
  | .sm4NoKey => 5

/-- STATUS as a read returns it (R29), from bit 31 down: reserved, KEYVALID, SM3ACT, reserved, CHK, ERR, reserved,
AERR, DONE, BUSY. -/
def statusWord (s : State) : Word :=
  0#18 ++ BitVec.ofBool s.keyValid ++ BitVec.ofBool s.sm3Active ++ 0#1 ++ s.chk ++ s.err ++ 0#1 ++
    BitVec.ofBool s.aerr ++ BitVec.ofBool s.done ++ BitVec.ofBool s.busy

/-- CTRL as a read returns it: IE in bit 0, SRST reads 0 (R30). -/
def ctrlWord (s : State) : Word := 0#31 ++ BitVec.ofBool s.ie

/-- SM3_CTL as a read returns it: ACTIVE in bit 0 (R31). -/
def sm3CtlWord (s : State) : Word := 0#31 ++ BitVec.ofBool s.sm3Active

/-- PINF as a read returns it: INF in bits 7:0 (R23). -/
def pinfWord (s : State) : Word := 0#24 ++ s.pinf

/-- The interrupt output, a level (R36, R244). -/
def irq (s : State) : Bool := s.ie && s.done

/-- The value `ON_CURVE·4 + RANGE_OK·2 + NOT_INF` of STATUS.CHK (R159). -/
def chkBits (onCurve rangeOk notInf : Bool) : BitVec 3 :=
  BitVec.ofBool onCurve ++ BitVec.ofBool rangeOk ++ BitVec.ofBool notInf

end Sys2Proof.Machine
end

