-- ==== Sys2Proof/Machine/Ops.lean ====
section
/-! DEFINITION. The shared operations: accept and completion of a command (40_execution.md R110 to R113), the access
error (60_exceptions.md R242), the resets (70_reset_and_hazards.md R270 to R272), and the host's accesses to the
register window (20_memory.md R61 to R67). -/

namespace Sys2Proof.Machine

/-- The constant the register ID always holds (R27). -/
def idWord : Word := 0x534D4301

/-! ### Commands -/

/-- `accept(c)` (R110): the word is latched, whatever it is; STATUS shows a command in flight. -/
def accept (s : State) (c : Word) : State :=
  { s with cmdl := c, pend := true, busy := true, done := false, err := 0 }

/-- The part of a commit that every completion makes (R111). -/
def finish (s : State) (code : BitVec 4) : State :=
  { s with err := code, busy := false, done := true, pend := false }

/-- The commit of a completion (R111, R113): `r` is what `Exec` gave in the state `s`, the state with the command's
writes or the error that ends it. On an error none of the writes happens. -/
def commit (s : State) (r : Except CmdError State) : State :=
  match r with
  | .ok t => finish t 0
  | .error e => finish s (errValue e)

/-- The completion of a latched word that is illegal (R94, R112). -/
def completeIllegal (s : State) : State := commit s (.error .illegal)

/-! ### Access errors and resets -/

/-- `raise AccessError` (R242): AERR is set and nothing else changes. -/
def accessError (s : State) : State := { s with aerr := true }

/-- A reset, hard or soft (R271): every register takes its reset value and the command in flight is gone. The pin's
level and the model's own fields, which are not registers of SMCORE, stay (assumption log 7). -/
def resetRegs (s : State) : State :=
  { State.reset with rstN := s.rstN, inputs := s.inputs, reply := s.reply, draws := s.draws }

/-- The pin rst_n takes a level (R270, R272): low, SMCORE is in the reset state; high, it keeps what it holds. -/
def setRstPin (s : State) (level : Bool) : State :=
  if level then { s with rstN := true } else { resetRegs s with rstN := false }

/-! ### The register map -/

/-- The register whose word 0 stands at `base` of a run of `n` words, when `off` falls in the run. -/
def wordIndex (base n off : Nat) : Option (Fin n) :=
  if h : base ≤ off ∧ off < base + 4 * n then some ⟨(off - base) / 4, by omega⟩ else none

/-- The word at offset `off` of the registers V0..V15, eight words each (R62). -/
def vWordAt (off : Nat) : Option Reg :=
  (wordIndex 0x100 128 off).map fun (k : Fin 128) => .v ⟨k.val / 8, by omega⟩ ⟨k.val % 8, by omega⟩

/-- The register at a word offset of the window, if one is mapped there (R62, R67). -/
def regAt (o : BitVec 12) : Option Reg :=
  match o.toNat with
  | 0x000 => some .id
  | 0x004 => some .cmd
  | 0x008 => some .status
  | 0x00C => some .ctrl
  | 0x010 => some .pinf
  | 0x014 => some .sm3Ctl
  | 0x018 => some .sm3CntHi
  | 0x01C => some .sm3CntLo
  | off =>
    if off % 4 ≠ 0 then none
    else vWordAt off
      <|> (wordIndex 0x300 8 off).map (.curve .cp)
      <|> (wordIndex 0x320 8 off).map (.curve .ca)
      <|> (wordIndex 0x340 8 off).map (.curve .cb)
      <|> (wordIndex 0x360 8 off).map (.curve .cn)
      <|> (wordIndex 0x380 8 off).map .sm3V
      <|> (wordIndex 0x3A0 16 off).map .sm3Buf
      <|> (wordIndex 0x3E0 4 off).map .sm4Key
      <|> (wordIndex 0x3F0 4 off).map .sm4Din
      <|> (wordIndex 0x400 4 off).map .sm4Dout
      <|> (wordIndex 0x480 32 off).map .sm4Rk

/-- The first offset of a curve parameter register (R62). -/
def curveBase : CurveReg → Nat
  | .cp => 0x300
  | .ca => 0x320
  | .cb => 0x340
  | .cn => 0x360

/-- The offset a register stands at (R62). -/
def offsetOf : Reg → Nat
  | .id => 0x000
  | .cmd => 0x004
  | .status => 0x008
  | .ctrl => 0x00C
  | .pinf => 0x010
  | .sm3Ctl => 0x014
  | .sm3CntHi => 0x018
  | .sm3CntLo => 0x01C
  | .v i j => 0x100 + 0x20 * i + 4 * j
  | .curve c j => curveBase c + 4 * j
  | .sm3V i => 0x380 + 4 * i
  | .sm3Buf j => 0x3A0 + 4 * j
  | .sm4Key i => 0x3E0 + 4 * i
  | .sm4Din i => 0x3F0 + 4 * i
  | .sm4Dout i => 0x400 + 4 * i
  | .sm4Rk i => 0x480 + 4 * i

/-- The window as the host's address space sees it (R61): the offset of an address within it, none outside. -/
def windowOffset (addr : Nat) : Option (BitVec 12) :=
  if Config.coreBase ≤ addr ∧ addr < Config.coreBase + 4096 then
    some (BitVec.ofNat 12 (addr - Config.coreBase))
  else none

/-! ### Reading and writing registers -/

/-- The value of a curve parameter register (R24). -/
def getCurve (s : State) : CurveReg → Big
  | .cp => s.cp
  | .ca => s.ca
  | .cb => s.cb
  | .cn => s.cn

/-- A curve parameter register takes a value (R24). -/
def setCurve (s : State) (c : CurveReg) (x : Big) : State :=
  match c with
  | .cp => { s with cp := x }
  | .ca => { s with ca := x }
  | .cb => { s with cb := x }
  | .cn => { s with cn := x }

/-- The value a legal read of a register returns, its reserved bits 0 (R64). -/
def readReg (s : State) : Reg → Word
  | .id => idWord
  | .cmd => s.cmdl
  | .status => statusWord s
  | .ctrl => ctrlWord s
  | .pinf => pinfWord s
  | .sm3Ctl => sm3CtlWord s
  | .sm3CntHi => s.sm3Cnt.extractLsb' 32 32
  | .sm3CntLo => s.sm3Cnt.extractLsb' 0 32
  | .v i j => getWord s.v[i] j
  | .curve c j => getWord (getCurve s c) j
  | .sm3V i => s.sm3V[i]
  | .sm3Buf j => s.sm3Buf[j]
  | .sm4Key i => s.sm4Key[i]
  | .sm4Din i => s.sm4Din[i]
  | .sm4Dout i => s.sm4Dout[i]
  | .sm4Rk i => s.sm4Rk[i]

/-- A host write to a data register while idle; while BUSY it is refused (R65, R66). -/
def storeIdle (s t : State) : State := if s.busy then accessError s else t

/-- A legal host write of `w` to STATUS: bits 1 and 2 clear DONE and AERR (R29, R65). -/
def writeStatus (s : State) (w : Word) : State :=
  { s with done := s.done && !w.getLsbD 1, aerr := s.aerr && !w.getLsbD 2 }

/-- A legal host write of `w` to CTRL: a soft reset, or IE (R30, R65, R270). -/
def writeCtrl (s : State) (w : Word) : State :=
  if w.getLsbD 1 then resetRegs s else { s with ie := w.getLsbD 0 }

/-- A host write of `w` at an aligned, mapped offset with full strobes (R65, R66). -/
def writeReg (s : State) (r : Reg) (w : Word) : State :=
  match r with
  | .status => writeStatus s w
  | .ctrl => writeCtrl s w
  | .cmd => storeIdle s (accept s w)
  | .id => accessError s
  | .sm4Dout _ => accessError s
  | .sm4Rk _ => accessError s
  | .pinf => storeIdle s { s with pinf := w.extractLsb' 0 8 }
  | .sm3Ctl => storeIdle s { s with sm3Active := w.getLsbD 0 }
  | .sm3CntHi => storeIdle s { s with sm3Cnt := w ++ s.sm3Cnt.extractLsb' 0 32 }
  | .sm3CntLo => storeIdle s { s with sm3Cnt := s.sm3Cnt.extractLsb' 32 32 ++ w }
  | .v i j => storeIdle s (s.setV i (setWord s.v[i] j w))
  | .curve c j => storeIdle s (setCurve s c (setWord (getCurve s c) j w))
  | .sm3V i => storeIdle s { s with sm3V := s.sm3V.set i w }
  | .sm3Buf j => storeIdle s { s with sm3Buf := s.sm3Buf.set j w }
  | .sm4Key i => storeIdle s { s with sm4Key := s.sm4Key.set i w }
  | .sm4Din i => storeIdle s { s with sm4Din := s.sm4Din.set i w }

/-! ### Host accesses -/

/-- The low two offset bits of a legal access are 00 (R63). -/
def aligned (off : BitVec 12) : Bool := off.extractLsb' 0 2 == 0

/-- The register a legal read reaches: aligned and mapped (R63, R64). -/
def readTarget (a : Access) : Option Reg := if aligned a.off then regAt a.off else none

/-- The register a legal write reaches: aligned, mapped and with full strobes (R63, R65). -/
def writeTarget (a : Access) : Option Reg :=
  if aligned a.off ∧ a.strb = 0xF then regAt a.off else none

/-- What a read answers (R64): the register's value, or 0 where the read is an access error. -/
def readAnswer (s : State) (a : Access) : Word :=
  match readTarget a with
  | some r => readReg s r
  | none => 0

/-- `MemRead` (R64): the answer, and AERR where the read is an access error. -/
def hostRead (s : State) (a : Access) : State :=
  match readTarget a with
  | some r => { s with reply := some (readReg s r) }
  | none => { accessError s with reply := some 0 }

/-- `MemWrite` (R65, R66). -/
def hostWrite (s : State) (a : Access) : State :=
  match writeTarget a with
  | some r => writeReg s r a.data
  | none => accessError s

/-- A host access while rst_n = 0 is not taken: a read returns 0, a write has no effect, AERR is not set (R272). -/
def accessInReset (s : State) (a : Access) : State :=
  match a.kind with
  | .read => { s with reply := some 0 }
  | .write => s

/-- One host access (R60, R63 to R67, R272). -/
def hostAccess (s : State) (a : Access) : State :=
  if s.rstN then
    match a.kind with
    | .read => hostRead s a
    | .write => hostWrite s a
  else accessInReset s a

/-- The state a step starts its event from: the event is taken from `inputs`, and no read has been answered yet. -/
def takeInput (s : State) (rest : List Input) : State := { s with inputs := rest, reply := none }

/-- A command is in flight and SMCORE is not held in reset: the engine's step is enabled (R111, R272). -/
def engineReady (s : State) : Bool := s.rstN && s.pend

end Sys2Proof.Machine
end

