-- ==== Sys2Proof/Machine/ModArith.lean ====
section
/-! DEFINITION. Modular arithmetic on 256-bit unsigned operands (41_bigint_modular.md): MADD, MSUB, MMUL, MRED,
MINV, MEXP. Every value is computed exactly in Nat or Int and reduced once, at the end (R137). -/

namespace Sys2Proof.Machine

/-! ### Exact arithmetic -/

/-- `x mod m` for any integer x and m ≥ 1, the result in [0, m) (00_scope.md R9). -/
def modNat (x : Int) (m : Nat) : Nat := (x % (m : Int)).toNat

/-- The inverse of `a` modulo `m` by Euclid's recursion, `fuel` above `a`: with `y` the inverse of `m mod a` modulo
`a`, the number `(1 + m·(a − y)) / a` is the inverse of `a` modulo `m`. Meant for `a < m` prime to `m`, or m = 1. -/
def inverseEuclid : Nat → Nat → Nat → Nat
  | 0, _, _ => 0
  | fuel + 1, a, m =>
    if a ≤ 1 then a % m else (1 + m * (a - inverseEuclid fuel (m % a) a)) / a

/-- `inv(a)` modulo `m`: for gcd(a mod m, m) = 1 the unique x in [0, m) with a·x ≡ 1 (mod m) (R135). -/
def modInverse (a m : Nat) : Nat := inverseEuclid (a % m + 1) (a % m) m

/-- `a^e mod m` by squaring, `fuel` at least the number of bits of `e`. -/
def powSquaring (a m : Nat) : Nat → Nat → Nat
  | 0, _ => 1 % m
  | fuel + 1, e =>
    if e = 0 then 1 % m
    else if e % 2 = 0 then powSquaring a m fuel (e / 2) ^ 2 % m
    else powSquaring a m fuel (e / 2) ^ 2 % m * a % m

/-- `a^e mod m` for an exponent of at most 256 bits, with a^0 = 1 for every a (R136). -/
def powMod (a e m : Nat) : Nat := powSquaring a m 256 e

/-! ### The commands -/

/-- The common end of the commands of this family (R130): m = 0 is error 2; otherwise the value x mod m. -/
def reduced (x : Int) (m : Nat) : Except CmdError Big :=
  if m = 0 then .error .modZero else .ok (BitVec.ofNat 256 (modNat x m))

/-- `V[RD] <- r` as the writes of a command, or its error. -/
def storeV (s : State) (rd : VReg) (r : Except CmdError Big) : Except CmdError State :=
  r.map (s.setV rd)

/-- MADD (R131). -/
def execMadd (vd va vb vm : VReg) (s : State) : Host.Outcome State Fault Refusal :=
  .next (commit s (storeV s vd (reduced ((vNat s va : Int) + vNat s vb) (vNat s vm))))

/-- MSUB (R132): the integer difference, then mod. -/
def execMsub (vd va vb vm : VReg) (s : State) : Host.Outcome State Fault Refusal :=
  .next (commit s (storeV s vd (reduced ((vNat s va : Int) - vNat s vb) (vNat s vm))))

/-- MMUL (R133). -/
def execMmul (vd va vb vm : VReg) (s : State) : Host.Outcome State Fault Refusal :=
  .next (commit s (storeV s vd (reduced ((vNat s va : Int) * vNat s vb) (vNat s vm))))

/-- MRED (R134). -/
def execMred (vd va vm : VReg) (s : State) : Host.Outcome State Fault Refusal :=
  .next (commit s (storeV s vd (reduced (vNat s va) (vNat s vm))))

/-- The result of MINV (R135): error 2 before error 3 (R243). -/
def inverseResult (a m : Nat) : Except CmdError Big :=
  if m = 0 then .error .modZero
  else if Nat.gcd (a % m) m ≠ 1 then .error .notInvertible
  else .ok (BitVec.ofNat 256 (modInverse a m))

/-- MINV (R135). -/
def execMinv (vd va vm : VReg) (s : State) : Host.Outcome State Fault Refusal :=
  .next (commit s (storeV s vd (inverseResult (vNat s va) (vNat s vm))))

/-- The result of MEXP (R136). -/
def powResult (a e m : Nat) : Except CmdError Big :=
  if m = 0 then .error .modZero else .ok (BitVec.ofNat 256 (powMod a e m))

/-- MEXP (R136). -/
def execMexp (vd va ve vm : VReg) (s : State) : Host.Outcome State Fault Refusal :=
  .next (commit s (storeV s vd (powResult (vNat s va) (vNat s ve) (vNat s vm))))

end Sys2Proof.Machine
end

