-- ==== Sys2Proof/Machine/EcPoint.lean ====
section
/-! DEFINITION. Elliptic-curve point arithmetic (42_ec_point.md): the SM2 parameters (R160), the valid domain and
valid points (R151, R152), the affine group law (R153), the outcome on invalid inputs (R155), and ECADD, ECDBL,
ECMUL, ECCHK, ECLDSM2. -/

namespace Sys2Proof.Machine

/-! ### The SM2 domain parameters (R160) -/

/-- p of SM2. -/
def sm2P : Big := 0xFFFFFFFEFFFFFFFFFFFFFFFFFFFFFFFFFFFFFFFF00000000FFFFFFFFFFFFFFFF

/-- a of SM2, which is p − 3. -/
def sm2A : Big := 0xFFFFFFFEFFFFFFFFFFFFFFFFFFFFFFFFFFFFFFFF00000000FFFFFFFFFFFFFFFC

/-- b of SM2. -/
def sm2B : Big := 0x28E9FA9E9D9F5E344D5A9E4BCF6509A7F39789F515AB8F92DDBCBD414D940E93

/-- n of SM2. -/
def sm2N : Big := 0xFFFFFFFEFFFFFFFFFFFFFFFFFFFFFFFF7203DF6B21C6052B53BBF40939D54123

/-- The x coordinate of SM2's G. -/
def sm2Gx : Big := 0x32C4AE2C1F1981195F9904466A39C9948FE30BBFF2660BE1715A4589334C74C7

/-- The y coordinate of SM2's G. -/
def sm2Gy : Big := 0xBC3736A2F4F6779C59BDCEE36B692153D0A9877CC62A474002DF32E52139F0A0

/-! ### Valid domain and valid points -/

/-- No number from `d` on, `fuel` of them at most and none whose square is above `n`, divides `n`. -/
def noDivisorFrom (n : Nat) : Nat → Nat → Bool
  | 0, _ => true
  | fuel + 1, d =>
    if n < d * d then true
    else if n % d = 0 then false
    else noDivisorFrom n fuel (d + 1)

/-- `n` is prime. SM2's p is answered at once, so that the domain of R160 can be evaluated; for every n the answer
is that of `Nat.Prime n`, which `Sys2Proof.Laws.isPrime_iff` proves. -/
def isPrime (n : Nat) : Bool :=
  n == sm2P.toNat || (decide (2 ≤ n) && noDivisorFrom n n 2)

/-- The left side of the curve equation minus its right side, an exact integer (R152, R159). -/
def curveDefect (a b x y : Nat) : Int := (y : Int) ^ 2 - ((x : Int) ^ 3 + a * x + b)

/-- VD for given p, a, b (R151). -/
def validDomainOf (p a b : Nat) : Bool :=
  decide (3 < p) && decide (a < p) && decide (b < p) && decide ((4 * a ^ 3 + 27 * b ^ 2) % p ≠ 0) && isPrime p

/-- VD (R151). SMCORE never checks it; it decides whether R153 or R155 gives a result. -/
def validDomain (s : State) : Bool := validDomainOf s.cp.toNat s.ca.toNat s.cb.toNat

/-- A point is valid on the curve of p, a, b (R152). -/
def validPointOf (p a b : Nat) : Point → Bool
  | .inf => true
  | .affine x y =>
    decide (x.toNat < p) && decide (y.toNat < p) && decide (modNat (curveDefect a b x.toNat y.toNat) p = 0)

/-- VP(k) (R152). -/
def validPoint (s : State) (k : PReg) : Bool :=
  validPointOf s.cp.toNat s.ca.toNat s.cb.toNat (readPoint s k)

/-! ### The group law (R153) -/

/-- The affine point of two reduced coordinates. -/
def affineNat (x y : Nat) : Point := .affine (BitVec.ofNat 256 x) (BitVec.ofNat 256 y)

/-- The third point of the line of slope `l` through (x1, y1) and a point of abscissa x2, reflected:
x3 = (λ² − x1 − x2) mod p and y3 = (λ·(x1 − x3) − y1) mod p (R153). -/
def thirdPoint (p l x1 y1 x2 : Nat) : Point :=
  affineNat (modNat ((l : Int) ^ 2 - x1 - x2) p)
    (modNat ((l : Int) * ((x1 : Int) - modNat ((l : Int) ^ 2 - x1 - x2) p) - y1) p)

/-- The slope of a chord (R153). -/
def chordSlope (p x1 y1 x2 y2 : Nat) : Nat :=
  modNat (((y2 : Int) - y1) * modInverse (modNat ((x2 : Int) - x1) p) p) p

/-- The slope of a tangent (R153). -/
def tangentSlope (p a x y : Nat) : Nat :=
  modNat ((3 * (x : Int) ^ 2 + a) * modInverse (modNat (2 * (y : Int)) p) p) p

/-- `ecDbl` (R153). -/
def ecDbl (p a : Nat) : Point → Point
  | .inf => .inf
  | .affine x y =>
    if y.toNat = 0 then .inf
    else thirdPoint p (tangentSlope p a x.toNat y.toNat) x.toNat y.toNat x.toNat

/-- `ecAdd` (R153). -/
def ecAdd (p a : Nat) : Point → Point → Point
  | .inf, q => q
  | .affine x1 y1, .inf => .affine x1 y1
  | .affine x1 y1, .affine x2 y2 =>
    if x1 = x2 then
      if y1 = y2 ∧ y1.toNat ≠ 0 then ecDbl p a (.affine x1 y1) else .inf
    else thirdPoint p (chordSlope p x1.toNat y1.toNat x2.toNat y2.toNat) x1.toNat y1.toNat x2.toNat

/-- `ecMul` as the k-fold sum (R153). -/
def ecMul (p a : Nat) : Nat → Point → Point
  | 0, _ => .inf
  | k + 1, pt => ecAdd p a (ecMul p a k pt) pt

/-- One pass of R162's loop: double, and add the point where the scalar's bit is 1. -/
def ladderStep (p a : Nat) (pt q : Point) (bit : Bool) : Point :=
  if bit then ecAdd p a (ecDbl p a q) pt else ecDbl p a q

/-- R162's left-to-right double-and-add over the low `n` bits of `k`, from bit n − 1 down to bit 0, starting at
`q`. -/
def ladder (p a k : Nat) (pt : Point) : Nat → Point → Point
  | 0, q => q
  | n + 1, q => ladder p a k pt n (ladderStep p a pt q (k.testBit n))

/-- The reference scalar multiplication over the 256 bits of a scalar (R162), which gives `ecMul` on valid inputs;
a conforming ECMUL returns its result. -/
def ecMulRef (p a k : Nat) (pt : Point) : Point := ladder p a k pt 256 .inf

/-! ### Invalid inputs -/

/-- The outcome of an EC command on invalid inputs, given the draw (R155). -/
def drawOutcome (s : State) (pd : PReg) : EcDraw → Except CmdError State
  | .success r => .ok (writePoint s pd r)
  | .modZero => .error .modZero
  | .notInvertible => .error .notInvertible

/-- The draw that this command takes (R155) is used up, so that the next one is another free value. -/
def useDraw (s : State) : State := { s with draws := s.draws + 1 }

/-- Completion of a point command (R153 to R155): on valid inputs the result `r` is written to Pd; otherwise the
outcome is the free value `Config.ecDraw` at this draw (assumption log 3). -/
def completePoint (s : State) (valid : Bool) (pd : PReg) (r : Point) : State :=
  if valid then commit s (.ok (writePoint s pd r))
  else commit (useDraw s) (drawOutcome (useDraw s) pd (Config.ecDraw s.draws))

/-! ### The commands -/

/-- ECADD (R156). -/
def execEcadd (pd p1 p2 : PReg) (s : State) : Host.Outcome State Fault Refusal :=
  .next (completePoint s (validDomain s && validPoint s p1 && validPoint s p2) pd
    (ecAdd s.cp.toNat s.ca.toNat (readPoint s p1) (readPoint s p2)))

/-- ECDBL (R157). -/
def execEcdbl (pd p1 : PReg) (s : State) : Host.Outcome State Fault Refusal :=
  .next (completePoint s (validDomain s && validPoint s p1) pd
    (ecDbl s.cp.toNat s.ca.toNat (readPoint s p1)))

/-- ECMUL (R158, R162); the scalar is any 256-bit value (D37). -/
def execEcmul (pd p1 : PReg) (vk : VReg) (s : State) : Host.Outcome State Fault Refusal :=
  .next (completePoint s (validDomain s && validPoint s p1) pd
    (ecMulRef s.cp.toNat s.ca.toNat (vNat s vk) (readPoint s p1)))

/-- ON_CURVE of ECCHK, from raw coordinates (R159). -/
def onCurve (s : State) (x y : Nat) : Bool :=
  decide (modNat (curveDefect s.ca.toNat s.cb.toNat x y) s.cp.toNat = 0)

/-- RANGE_OK of ECCHK (R159, C4). -/
def rangeOk (s : State) (x y : Nat) : Bool := decide (x < s.cp.toNat) && decide (y < s.cp.toNat)

/-- The value ECCHK writes to STATUS.CHK (R159): the coordinates are read even where INF is 1. -/
def checkPoint (s : State) (k : PReg) : BitVec 3 :=
  chkBits (onCurve s (vNat s (xReg k)) (vNat s (yReg k))) (rangeOk s (vNat s (xReg k)) (vNat s (yReg k)))
    (!infBit s k)

/-- ECCHK (R159, D38). -/
def execEcchk (p1 : PReg) (s : State) : Host.Outcome State Fault Refusal :=
  .next (commit s (if s.cp = 0 then .error .modZero else .ok { s with chk := checkPoint s p1 }))

/-- The curve registers take the SM2 parameters (R161). -/
def loadSm2Curve (s : State) : State := { s with cp := sm2P, ca := sm2A, cb := sm2B, cn := sm2N }

/-- ECLDSM2 (R161). -/
def execEcldsm2 (pd : PReg) (s : State) : Host.Outcome State Fault Refusal :=
  .next (commit s (.ok (writePoint (loadSm2Curve s) pd (.affine sm2Gx sm2Gy))))

end Sys2Proof.Machine
end

