-- ==== Sys2Proof/Machine/Nop.lean ====
section
/-! DEFINITION. NOP (40_execution.md R117). -/

namespace Sys2Proof.Machine

/-- NOP (R117): no writes, code 0. -/
def execNop (s : State) : Host.Outcome State Fault Refusal := .next (commit s (.ok s))

end Sys2Proof.Machine
end

