-- ==== Sys2Proof/Machine/Sm3.lean ====
section
/-! DEFINITION. The SM3 hash core (43_sm3.md): IV (R181), rounds (R182 to R184), message expansion (R185),
compression (R186), padding (R187), and SM3INIT, SM3BLK, SM3FIN. -/

namespace Sys2Proof.Machine

/-- ROTL(x, n): the left rotation by n mod 32 bits (R180). -/
def rotl (x : Word) (n : Nat) : Word := x.rotateLeft n

/-! ### Constants and functions -/

/-- The IV (R181). -/
def sm3Iv : Vector Word 8 :=
  #v[0x7380166F, 0x4914B2B9, 0x172442D7, 0xDA8A0600, 0xA96F30BC, 0x163138AA, 0xE38DEE4D, 0xB0FB0E4E]

/-- T_j (R182). -/
def sm3T (j : Nat) : Word := if j < 16 then 0x79CC4519 else 0x7A879D8A

/-- FF_j (R183). -/
def sm3FF (j : Nat) (x y z : Word) : Word :=
  if j < 16 then x ^^^ y ^^^ z else (x &&& y) ||| (x &&& z) ||| (y &&& z)

/-- GG_j (R183). -/
def sm3GG (j : Nat) (x y z : Word) : Word :=
  if j < 16 then x ^^^ y ^^^ z else (x &&& y) ||| (~~~x &&& z)

/-- P0 (R184). -/
def sm3P0 (x : Word) : Word := x ^^^ rotl x 9 ^^^ rotl x 17

/-- P1 (R184). -/
def sm3P1 (x : Word) : Word := x ^^^ rotl x 15 ^^^ rotl x 23

/-! ### Message expansion -/

/-- The next word of the schedule from the words before it, latest first: with `p` holding W[i−1], W[i−2], ...,
this is W[i] (R185). -/
def sm3NextW (p : List Word) : Word :=
  sm3P1 (p.getD 15 0 ^^^ p.getD 8 0 ^^^ rotl (p.getD 2 0) 15) ^^^ rotl (p.getD 12 0) 7 ^^^ p.getD 5 0

/-- `n` more words of the schedule, latest first (R185). -/
def sm3Extend : Nat → List Word → List Word
  | 0, p => p
  | n + 1, p => sm3Extend n (sm3NextW p :: p)

/-- W[0..67] of a block (R185). -/
def sm3Schedule (m : Vector Word 16) : List Word := (sm3Extend 52 m.toList.reverse).reverse

/-- W[i] (R185). -/
def sm3W (w : List Word) (i : Nat) : Word := w.getD i 0

/-- W1[i] = W[i] ⊕ W[i+4] (R185). -/
def sm3W1 (w : List Word) (i : Nat) : Word := sm3W w i ^^^ sm3W w (i + 4)

/-! ### Compression -/

/-- The eight working variables of a compression (R186). -/
structure Sm3Vars where
  a : Word
  b : Word
  c : Word
  d : Word
  e : Word
  f : Word
  g : Word
  h : Word
  deriving DecidableEq, Repr

/-- SS1 of round j (R186). -/
def sm3SS1 (j : Nat) (r : Sm3Vars) : Word := rotl (rotl r.a 12 + r.e + rotl (sm3T j) (j % 32)) 7

/-- TT1 of round j (R186). -/
def sm3TT1 (w : List Word) (j : Nat) (r : Sm3Vars) : Word :=
  sm3FF j r.a r.b r.c + r.d + (sm3SS1 j r ^^^ rotl r.a 12) + sm3W1 w j

/-- TT2 of round j (R186). -/
def sm3TT2 (w : List Word) (j : Nat) (r : Sm3Vars) : Word :=
  sm3GG j r.e r.f r.g + r.h + sm3SS1 j r + sm3W w j

/-- Round j: the new values all computed from the old ones (R186). -/
def sm3Round (w : List Word) (j : Nat) (r : Sm3Vars) : Sm3Vars where
  a := sm3TT1 w j r
  b := r.a
  c := rotl r.b 9
  d := r.c
  e := sm3P0 (sm3TT2 w j r)
  f := r.e
  g := rotl r.f 19
  h := r.g

/-- The working variables after the rounds 0 .. n−1 (R186). -/
def sm3Rounds (w : List Word) (r : Sm3Vars) : Nat → Sm3Vars
  | 0 => r
  | n + 1 => sm3Round w n (sm3Rounds w r n)

/-- The working variables start as the eight words of the running hash (R186). -/
def sm3Load (v : Vector Word 8) : Sm3Vars := ⟨v[0], v[1], v[2], v[3], v[4], v[5], v[6], v[7]⟩

/-- The running hash XORed with the working variables (R186). -/
def sm3Mix (v : Vector Word 8) (r : Sm3Vars) : Vector Word 8 :=
  #v[r.a ^^^ v[0], r.b ^^^ v[1], r.c ^^^ v[2], r.d ^^^ v[3],
     r.e ^^^ v[4], r.f ^^^ v[5], r.g ^^^ v[6], r.h ^^^ v[7]]

/-- CF(V, M) (R186). -/
def sm3CF (v : Vector Word 8) (m : Vector Word 16) : Vector Word 8 :=
  sm3Mix v (sm3Rounds (sm3Schedule m) (sm3Load v) 64)

/-! ### Padding -/

/-- The 64 bytes of a block buffer in order (R26, R69). -/
def bufBytes (m : Vector Word 16) : List Byte := m.toList.flatMap bytesOf

/-- A 64-bit number as 8 bytes, big-endian (R187). -/
def lengthBytes (n : BitVec 64) : List Byte := bytesOf (n.extractLsb' 32 32) ++ bytesOf (n.extractLsb' 0 32)

/-- Word j of 64 bytes packed into sixteen words (R69). -/
def packedWord (b : List Byte) (j : Nat) : Word :=
  wordOf (b.getD (4 * j) 0) (b.getD (4 * j + 1) 0) (b.getD (4 * j + 2) 0) (b.getD (4 * j + 3) 0)

/-- 64 bytes packed into a block of sixteen words (R69, R187). -/
def packBlock (b : List Byte) : Vector Word 16 := Vector.ofFn fun j => packedWord b j

/-- The number of zero bytes of the padding (R187). -/
def padZeros (n : Nat) : Nat := if n ≤ 55 then 55 - n else 119 - n

/-- The padded tail T of a message: the bytes left, 0x80, the zeros and the bit length (R187). -/
def paddedTail (buf : Vector Word 16) (n : Nat) (bits : BitVec 64) : List Byte :=
  (bufBytes buf).take n ++ [0x80] ++ List.replicate (padZeros n) 0 ++ lengthBytes bits

/-- `Pad(BUF, L, ℓ)`: one block for L ≤ 55, else two (R187). -/
def padBlocks (buf : Vector Word 16) (n : Nat) (bits : BitVec 64) : List (Vector Word 16) :=
  if n ≤ 55 then [packBlock (paddedTail buf n bits)]
  else [packBlock ((paddedTail buf n bits).take 64), packBlock ((paddedTail buf n bits).drop 64)]

/-! ### The commands -/

/-- SM3INIT's writes (R188). -/
def startHash (s : State) : State := { s with sm3V := sm3Iv, sm3Cnt := 0, sm3Active := true }

/-- SM3INIT (R188). -/
def execSm3init (s : State) : Host.Outcome State Fault Refusal := .next (commit s (.ok (startHash s)))

/-- SM3BLK and SM3FIN need ACTIVE = 1, else error 4 (R189, R190). -/
def whenActive (s t : State) : Except CmdError State := if s.sm3Active then .ok t else .error .sm3Seq

/-- SM3BLK's writes (R189). -/
def absorbBlock (s : State) : State := { s with sm3V := sm3CF s.sm3V s.sm3Buf, sm3Cnt := s.sm3Cnt + 64 }

/-- SM3BLK (R189). -/
def execSm3blk (s : State) : Host.Outcome State Fault Refusal := .next (commit s (whenActive s (absorbBlock s)))

/-- CNT' = (CNT + L) mod 2^64 (R190). -/
def finalCount (s : State) (len : Len) : BitVec 64 := s.sm3Cnt + BitVec.ofNat 64 len.val

/-- SM3FIN's writes: the padded blocks compressed in order (R190). -/
def finishHash (s : State) (len : Len) : State :=
  { s with
    sm3V := (padBlocks s.sm3Buf len.val (8 * finalCount s len)).foldl sm3CF s.sm3V
    sm3Cnt := finalCount s len
    sm3Active := false }

/-- SM3FIN (R190). -/
def execSm3fin (len : Len) (s : State) : Host.Outcome State Fault Refusal :=
  .next (commit s (whenActive s (finishHash s len)))

end Sys2Proof.Machine
end

