-- ==== Sys2Proof/Machine/Sm4.lean ====
section
/-! DEFINITION. The SM4 block cipher core (44_sm4.md): S-box (R210), round functions (R211, R212), constants
(R213, R214), key schedule (R215), block transform (R216), and SM4KEY, SM4ENC, SM4DEC. -/

namespace Sys2Proof.Machine

/-! ### S-box and round functions -/

/-- The S-box, row by row (R210). -/
def sboxTable : List Byte :=
  ([0xD6, 0x90, 0xE9, 0xFE, 0xCC, 0xE1, 0x3D, 0xB7, 0x16, 0xB6, 0x14, 0xC2, 0x28, 0xFB, 0x2C, 0x05] ++
    [0x2B, 0x67, 0x9A, 0x76, 0x2A, 0xBE, 0x04, 0xC3, 0xAA, 0x44, 0x13, 0x26, 0x49, 0x86, 0x06, 0x99] ++
    [0x9C, 0x42, 0x50, 0xF4, 0x91, 0xEF, 0x98, 0x7A, 0x33, 0x54, 0x0B, 0x43, 0xED, 0xCF, 0xAC, 0x62] ++
    [0xE4, 0xB3, 0x1C, 0xA9, 0xC9, 0x08, 0xE8, 0x95, 0x80, 0xDF, 0x94, 0xFA, 0x75, 0x8F, 0x3F, 0xA6] ++
    [0x47, 0x07, 0xA7, 0xFC, 0xF3, 0x73, 0x17, 0xBA, 0x83, 0x59, 0x3C, 0x19, 0xE6, 0x85, 0x4F, 0xA8] ++
    [0x68, 0x6B, 0x81, 0xB2, 0x71, 0x64, 0xDA, 0x8B, 0xF8, 0xEB, 0x0F, 0x4B, 0x70, 0x56, 0x9D, 0x35] ++
    [0x1E, 0x24, 0x0E, 0x5E, 0x63, 0x58, 0xD1, 0xA2, 0x25, 0x22, 0x7C, 0x3B, 0x01, 0x21, 0x78, 0x87] ++
    [0xD4, 0x00, 0x46, 0x57, 0x9F, 0xD3, 0x27, 0x52, 0x4C, 0x36, 0x02, 0xE7, 0xA0, 0xC4, 0xC8, 0x9E] ++
    [0xEA, 0xBF, 0x8A, 0xD2, 0x40, 0xC7, 0x38, 0xB5, 0xA3, 0xF7, 0xF2, 0xCE, 0xF9, 0x61, 0x15, 0xA1] ++
    [0xE0, 0xAE, 0x5D, 0xA4, 0x9B, 0x34, 0x1A, 0x55, 0xAD, 0x93, 0x32, 0x30, 0xF5, 0x8C, 0xB1, 0xE3] ++
    [0x1D, 0xF6, 0xE2, 0x2E, 0x82, 0x66, 0xCA, 0x60, 0xC0, 0x29, 0x23, 0xAB, 0x0D, 0x53, 0x4E, 0x6F] ++
    [0xD5, 0xDB, 0x37, 0x45, 0xDE, 0xFD, 0x8E, 0x2F, 0x03, 0xFF, 0x6A, 0x72, 0x6D, 0x6C, 0x5B, 0x51] ++
    [0x8D, 0x1B, 0xAF, 0x92, 0xBB, 0xDD, 0xBC, 0x7F, 0x11, 0xD9, 0x5C, 0x41, 0x1F, 0x10, 0x5A, 0xD8] ++
    [0x0A, 0xC1, 0x31, 0x88, 0xA5, 0xCD, 0x7B, 0xBD, 0x2D, 0x74, 0xD0, 0x12, 0xB8, 0xE5, 0xB4, 0xB0] ++
    [0x89, 0x69, 0x97, 0x4A, 0x0C, 0x96, 0x77, 0x7E, 0x65, 0xB9, 0xF1, 0x09, 0xC5, 0x6E, 0xC6, 0x84] ++
    [0x18, 0xF0, 0x7D, 0xEC, 0x3A, 0xDC, 0x4D, 0x20, 0x79, 0xEE, 0x5F, 0x3E, 0xD7, 0xCB, 0x39, 0x48])

/-- Sbox[x] (R210). -/
def sbox (x : Byte) : Byte := sboxTable.getD x.toNat 0

/-- The word substitution (R211). -/
def sm4Tau (x : Word) : Word := wordOf (sbox (byteOf x 0)) (sbox (byteOf x 1)) (sbox (byteOf x 2)) (sbox (byteOf x 3))

/-- L, of the block transform (R212). -/
def sm4L (x : Word) : Word := x ^^^ rotl x 2 ^^^ rotl x 10 ^^^ rotl x 18 ^^^ rotl x 24

/-- L', of the key schedule (R212). -/
def sm4L' (x : Word) : Word := x ^^^ rotl x 13 ^^^ rotl x 23

/-- T: the S-box first, then L (R212, C3). -/
def sm4T (x : Word) : Word := sm4L (sm4Tau x)

/-- T': the S-box first, then L' (R212, C3). -/
def sm4T' (x : Word) : Word := sm4L' (sm4Tau x)

/-! ### The rolling window -/

/-- Four words in order, the oldest first: the window that the key schedule and the block transform roll (R215,
R216). -/
structure Quad where
  w0 : Word
  w1 : Word
  w2 : Word
  w3 : Word
  deriving DecidableEq, Repr

/-- The window of four registers. -/
def quadOf (x : Vector Word 4) : Quad := ⟨x[0], x[1], x[2], x[3]⟩

/-- The window rolled one round: the oldest word, XORed with `f` of the other three and the round's word, becomes
the newest (R215, R216). -/
def rollQuad (f : Word → Word) (q : Quad) (k : Word) : Quad :=
  ⟨q.w1, q.w2, q.w3, q.w0 ^^^ f (q.w1 ^^^ q.w2 ^^^ q.w3 ^^^ k)⟩

/-! ### Key schedule -/

/-- FK[0..3] (R213). -/
def sm4FK : Quad := ⟨0xA3B1BAC6, 0x56AA3350, 0x677D9197, 0xB27022DC⟩

/-- Byte j of CK[i]: ((4i + j)·7) mod 256 (R214). -/
def ckByte (i j : Nat) : Byte := BitVec.ofNat 8 ((4 * i + j) * 7)

/-- CK[i] (R214). -/
def sm4CK (i : Nat) : Word := wordOf (ckByte i 0) (ckByte i 1) (ckByte i 2) (ckByte i 3)

/-- The key words XORed with FK (R215). -/
def keyStart (k : Quad) : Quad :=
  ⟨k.w0 ^^^ sm4FK.w0, k.w1 ^^^ sm4FK.w1, k.w2 ^^^ sm4FK.w2, k.w3 ^^^ sm4FK.w3⟩

/-- The window of the key schedule after n rounds, K_n .. K_{n+3} (R215). -/
def keyWindow (k : Quad) : Nat → Quad
  | 0 => keyStart k
  | n + 1 => rollQuad sm4T' (keyWindow k n) (sm4CK n)

/-- rk[i] = K_{i+4}, the newest word after round i (R215). -/
def roundKey (k : Quad) (i : Nat) : Word := (keyWindow k (i + 1)).w3

/-- KS(K): rk[0..31] (R215). -/
def keySchedule (k : Quad) : Vector Word 32 := Vector.ofFn fun i => roundKey k i

/-! ### Block transform -/

/-- The window of the block transform after the rounds of some round keys (R216). -/
def blockRounds (rk : List Word) (x : Quad) : Quad := rk.foldl (rollQuad sm4T) x

/-- BT: the rounds, then the last four words in reverse order (R216). -/
def blockTransform (rk : List Word) (x : Quad) : Vector Word 4 :=
  #v[(blockRounds rk x).w3, (blockRounds rk x).w2, (blockRounds rk x).w1, (blockRounds rk x).w0]

/-! ### The commands -/

/-- SM4KEY's writes (R217). -/
def expandKey (s : State) : State := { s with sm4Rk := keySchedule (quadOf s.sm4Key), keyValid := true }

/-- SM4KEY (R217). -/
def execSm4key (s : State) : Host.Outcome State Fault Refusal := .next (commit s (.ok (expandKey s)))

/-- SM4ENC and SM4DEC write SM4_DOUT from SM4_DIN, and need KEYVALID = 1, else error 5 (R218, R219). -/
def cryptBlock (s : State) (rk : List Word) : Except CmdError State :=
  if s.keyValid then .ok { s with sm4Dout := blockTransform rk (quadOf s.sm4Din) } else .error .sm4NoKey

/-- SM4ENC (R218). -/
def execSm4enc (s : State) : Host.Outcome State Fault Refusal := .next (commit s (cryptBlock s s.sm4Rk.toList))

/-- SM4DEC (R219): the round keys reversed. -/
def execSm4dec (s : State) : Host.Outcome State Fault Refusal :=
  .next (commit s (cryptBlock s s.sm4Rk.toList.reverse))

end Sys2Proof.Machine
end

