-- ==== Sys2Proof/Machine/Dispatch.lean ====
section
/-! DEFINITION. `exec`: the completion of a decoded command (40_execution.md R111, R112), one arm per constructor of
`Instr`, each one call of the command's meaning. -/

namespace Sys2Proof.Machine

/-- The completion step of a legal command in a state (R111, R112). -/
def exec (i : Instr) (s : State) : Host.Outcome State Fault Refusal :=
  match i with
  | .nop => Sys2Proof.Machine.execNop s
  | .madd vd va vb vm => Sys2Proof.Machine.execMadd vd va vb vm s
  | .msub vd va vb vm => Sys2Proof.Machine.execMsub vd va vb vm s
  | .mmul vd va vb vm => Sys2Proof.Machine.execMmul vd va vb vm s
  | .mred vd va vm => Sys2Proof.Machine.execMred vd va vm s
  | .minv vd va vm => Sys2Proof.Machine.execMinv vd va vm s
  | .mexp vd va ve vm => Sys2Proof.Machine.execMexp vd va ve vm s
  | .ecadd pd p1 p2 => Sys2Proof.Machine.execEcadd pd p1 p2 s
  | .ecdbl pd p1 => Sys2Proof.Machine.execEcdbl pd p1 s
  | .ecmul pd p1 vk => Sys2Proof.Machine.execEcmul pd p1 vk s
  | .ecchk p1 => Sys2Proof.Machine.execEcchk p1 s
  | .ecldsm2 pd => Sys2Proof.Machine.execEcldsm2 pd s
  | .sm3init => Sys2Proof.Machine.execSm3init s
  | .sm3blk => Sys2Proof.Machine.execSm3blk s
  | .sm3fin len => Sys2Proof.Machine.execSm3fin len s
  | .sm4key => Sys2Proof.Machine.execSm4key s
  | .sm4enc => Sys2Proof.Machine.execSm4enc s
  | .sm4dec => Sys2Proof.Machine.execSm4dec s

end Sys2Proof.Machine
end

