-- ==== Sys2Proof/Machine/Step.lean ====
section
/-! DEFINITION. One step of SMCORE (00_scope.md R8): the next event of `inputs` happens; with no event left, the
engine moves if a command is in flight, else the machine waits (60_exceptions.md R254). -/

namespace Sys2Proof.Machine

/-- The engine's turn (40_execution.md R111, R112): while a command is in flight, its completion step; otherwise
the turn passes. -/
def engineTurn (s : State) : Host.Outcome State Fault Refusal :=
  if engineReady s then
    match decode s.cmdl with
    | .ok i => exec i s
    | .error _ => .next (completeIllegal s)
  else .next s

/-- One step. -/
def step (s : State) : Host.Outcome State Fault Refusal :=
  match s.inputs with
  | [] => engineTurn (takeInput s [])
  | .engine :: rest => engineTurn (takeInput s rest)
  | .access a :: rest => .next (hostAccess (takeInput s rest) a)
  | .rstPin level :: rest => .next (setRstPin (takeInput s rest) level)

/-- `s` with the word `w` accepted as the command in flight (R110), the reset pin released, and the engine to move
next: the very next step completes that command (assumption log 8). -/
def State.withFetchWord (s : State) (nbits w : Nat) : State :=
  { accept s (BitVec.ofNat 32 (w % 2 ^ nbits)) with rstN := true, inputs := .engine :: s.inputs }

end Sys2Proof.Machine
end

