-- ==== Sys2Proof/Machine/HostProgram.lean ====
section
/-! DEFINITION. The host's side of the register port: the pseudo-instructions of a host program and their exact
expansions into accesses (30_encoding.md R98), and the words of a 256-bit value as a host assembles them (R21). -/

namespace Sys2Proof.Machine

/-- `WR off, v`: one legal write (R98). -/
def hostWR (off : BitVec 12) (x : Word) : Access := ⟨.write, off, 0xF, x⟩

/-- `RD off`: one legal read (R98). -/
def hostRD (off : BitVec 12) : Access := ⟨.read, off, 0xF, 0⟩

/-- The eight writes of a 256-bit register whose word 0 stands at `base` (R98). -/
def hostWriteWide (base : Nat) (x : Big) : List Access :=
  (List.finRange 8).map fun j => hostWR (BitVec.ofNat 12 (base + 4 * j.val)) (getWord x j)

/-- The eight reads of a 256-bit register whose word 0 stands at `base` (R98). -/
def hostReadWide (base : Nat) : List Access :=
  (List.finRange 8).map fun j => hostRD (BitVec.ofNat 12 (base + 4 * j.val))

/-- `WRV vN, X` (R98). -/
def hostWRV (i : VReg) (x : Big) : List Access := hostWriteWide (0x100 + 0x20 * i.val) x

/-- `RDV vN` (R98). -/
def hostRDV (i : VReg) : List Access := hostReadWide (0x100 + 0x20 * i.val)

/-- `WRC Cx, X` (R98). -/
def hostWRC (c : CurveReg) (x : Big) : List Access := hostWriteWide (curveBase c) x

/-- `RDC Cx` (R98). -/
def hostRDC (c : CurveReg) : List Access := hostReadWide (curveBase c)

/-- `ISSUE <command>` (R98). -/
def hostISSUE (i : Instr) : Access := hostWR 0x004 (encode i)

/-- `ACK`, which clears DONE (R98). -/
def hostACK : Access := hostWR 0x008 0x00000002

/-- `SRST`, a soft reset (R98). -/
def hostSRST : Access := hostWR 0x00C 0x00000002

/-- `WAIT` (R98) as it happens: some polls of STATUS find BUSY = 1, the engine completes the command, and the last
poll finds BUSY = 0. The loop itself is the host's control flow (R118). -/
def hostWAIT (polls : Nat) : List Input :=
  List.replicate polls (.access (hostRD 0x008)) ++ [.engine, .access (hostRD 0x008)]

/-- Accesses performed one after the other, in order (20_memory.md R72). -/
def hostRun (s : State) (l : List Access) : State := l.foldl hostAccess s

/-- The value a host assembles from eight words read in offset order, word 0 the most significant (R21). -/
def bigOfWords (w : List Word) : Nat := w.foldl (fun acc x => acc * 2 ^ 32 + x.toNat) 0

/-- The access that a bus cycle at a host address makes, if the address falls in the window (R61). -/
def accessAtAddress (addr : Nat) (kind : AccessKind) (strb : BitVec 4) (data : Word) : Option Access :=
  (windowOffset addr).map fun off => ⟨kind, off, strb, data⟩

end Sys2Proof.Machine
end

