-- ==== Sys2Proof/Safety.lean ====
section
/-! DEFINITION. What a consistent state of SMCORE is: the relations between its fields that the spec states and that
reset establishes. Claims about every state take them as a premise where they need one. -/

namespace Sys2Proof.Safety

open Sys2Proof.Machine

/-- PEND is 1 exactly when STATUS.BUSY is 1 (10_state.md R35). -/
abbrev PendIsBusy (s : State) : Prop := s.pend = s.busy

/-- While a command is in flight DONE and ERR are 0, as its accept left them (40_execution.md R110). -/
abbrev BusyIsClear (s : State) : Prop := s.busy = true → s.done = false ∧ s.err = 0

/-- STATUS.ERR never holds a reserved code (60_exceptions.md R241, U6). -/
abbrev ErrIsDefined (s : State) : Prop := s.err.toNat ≤ 5

/-- Before the first SM4KEY since reset, the round keys and the output block are 0 (10_state.md R33, R34). -/
abbrev NoKeyNoData (s : State) : Prop :=
  s.keyValid = false → s.sm4Rk = Vector.replicate 32 0 ∧ s.sm4Dout = Vector.replicate 4 0

/-- While rst_n = 0 every register is at its reset value (70_reset_and_hazards.md R272). -/
abbrev ResetIsHeld (s : State) : Prop := s.rstN = false → resetRegs s = s

/-- A consistent state: every relation above. -/
abbrev Consistent (s : State) : Prop :=
  PendIsBusy s ∧ BusyIsClear s ∧ ErrIsDefined s ∧ NoKeyNoData s ∧ ResetIsHeld s

/-- The host port is taken: SMCORE is not held in reset (R272). -/
abbrev Running (s : State) : Prop := s.rstN = true

/-- Idle: STATUS.BUSY = 0 (00_scope.md R12), and not held in reset. -/
abbrev Idle (s : State) : Prop := s.rstN = true ∧ s.busy = false

/-- A run that has ended: no event is left and nothing is in flight (70_reset_and_hazards.md R281). -/
abbrev Ended (s : State) : Prop := s.inputs = [] ∧ s.pend = false

end Sys2Proof.Safety
end

