-- ==== Sys2Proof/Certificates/Slice0/Obligations.lean ====
section
/-! DEFINITION. The statements about SMCORE, each taken from the numbered rules of spec/ that its comment names. -/

open Sys2Proof Sys2Proof.Machine Sys2Proof.Safety

namespace Sys2Proof.Statements

/-- What every completion writes besides the command's own writes (40_execution.md R111). -/
abbrev ended (t : State) (code : BitVec 4) : State :=
  { t with err := code, busy := false, done := true, pend := false }

/-- The word of a command is the one R97 assembles from its opcode and fields. -/
abbrev WordIs (i : Instr) (op rd rs1 rs2 rs3 len : Nat) : Prop :=
  encode i = BitVec.ofNat 32 (op + rd * 2 ^ 8 + rs1 * 2 ^ 12 + rs2 * 2 ^ 16 + rs3 * 2 ^ 20 + len * 2 ^ 24)

/-- The three curve parameters as numbers (42_ec_point.md R150). -/
abbrev p (s : State) : Nat := s.cp.toNat
abbrev a (s : State) : Nat := s.ca.toNat
abbrev b (s : State) : Nat := s.cb.toNat

/-- VD, the valid domain, as R151 words it. -/
abbrev VD (s : State) : Prop :=
  (p s).Prime ∧ 3 < p s ∧ a s < p s ∧ b s < p s ∧ (4 * a s ^ 3 + 27 * b s ^ 2) % p s ≠ 0

/-- VP(k), the valid point, as R152 words it. -/
abbrev VP (s : State) (k : PReg) : Prop :=
  s.pinf.getLsbD k.val = true ∨
  ((s.v[xReg k]).toNat < p s ∧ (s.v[yReg k]).toNat < p s ∧
    (((s.v[yReg k]).toNat : Int) ^ 2 - ((s.v[xReg k]).toNat : Int) ^ 3 - a s * (s.v[xReg k]).toNat - b s)
      % (p s : Int) = 0)

/-- The sum of two points by R153, its slope and coordinates said by congruences instead of inverses: R is the sum of
the first two points on the curve of p and a. -/
def IsSum (p a : Nat) : Point → Point → Point → Prop
  | .inf, q, r => r = q
  | .affine x y, .inf, r => r = .affine x y
  | .affine x1 y1, .affine x2 y2, r =>
    if x1 = x2 ∧ ¬ (y1 = y2 ∧ y1.toNat ≠ 0) then r = .inf
    else ∃ l x3 y3 : Nat, r = .affine (BitVec.ofNat 256 x3) (BitVec.ofNat 256 y3) ∧
      l < p ∧ x3 < p ∧ y3 < p ∧
      (if x1 = x2 then (l : Int) * (2 * y1.toNat) ≡ 3 * (x1.toNat : Int) ^ 2 + a [ZMOD p]
        else (l : Int) * ((x2.toNat : Int) - x1.toNat) ≡ (y2.toNat : Int) - y1.toNat [ZMOD p]) ∧
      (x3 : Int) ≡ (l : Int) ^ 2 - x1.toNat - x2.toNat [ZMOD p] ∧
      (y3 : Int) ≡ (l : Int) * ((x1.toNat : Int) - x3) - y1.toNat [ZMOD p]

/-- The outcomes R155 allows an EC command with destination Pd on invalid inputs. Which of them happens is the free
value of assumption log 3: the statement holds whichever it is. -/
def IsDraw (s : State) (pd : PReg) (t : State) : Prop :=
  (∃ r : Point, t = { ended (writePoint s pd r) 0 with draws := s.draws + 1 }) ∨
  t = { ended s 2 with draws := s.draws + 1 } ∨ t = { ended s 3 with draws := s.draws + 1 }

/-- The access errors A1 to A5 (60_exceptions.md R242). -/
abbrev IsAccessError (s : State) (x : Access) : Prop :=
  x.off.toNat % 4 ≠ 0 ∨
  (x.kind = .write ∧ x.strb ≠ 0xF) ∨
  ((0x020 ≤ x.off.toNat ∧ x.off.toNat ≤ 0x0FF) ∨ (0x410 ≤ x.off.toNat ∧ x.off.toNat ≤ 0x47F) ∨
    0x500 ≤ x.off.toNat) ∨
  (x.kind = .write ∧ (x.off.toNat = 0x000 ∨ (0x400 ≤ x.off.toNat ∧ x.off.toNat ≤ 0x40F) ∨
    (0x480 ≤ x.off.toNat ∧ x.off.toNat ≤ 0x4FF))) ∨
  (x.kind = .write ∧ s.busy = true ∧ x.off.toNat ≠ 0x008 ∧ x.off.toNat ≠ 0x00C)

/-- Every register at its reset value (70_reset_and_hazards.md R271), the pin at a level; the model's own fields are
those of `s`. -/
def clearedState (s : State) (level : Bool) : State where
  v := Vector.replicate 16 0
  pinf := 0
  cp := 0
  ca := 0
  cb := 0
  cn := 0
  sm3V := Vector.replicate 8 0
  sm3Buf := Vector.replicate 16 0
  sm3Active := false
  sm3Cnt := 0
  sm4Key := Vector.replicate 4 0
  sm4Din := Vector.replicate 4 0
  sm4Dout := Vector.replicate 4 0
  sm4Rk := Vector.replicate 32 0
  keyValid := false
  busy := false
  done := false
  aerr := false
  err := 0
  chk := 0
  ie := false
  cmdl := 0
  pend := false
  rstN := level
  inputs := s.inputs
  reply := s.reply
  draws := s.draws

/-- The registers a host may write while idle (R62, R65): RW, and neither STATUS, CTRL nor CMD. -/
def isData : Reg → Bool
  | .id | .cmd | .status | .ctrl | .sm4Dout _ | .sm4Rk _ => false
  | .pinf | .sm3Ctl | .sm3CntHi | .sm3CntLo | .v _ _ | .curve _ _ | .sm3V _ | .sm3Buf _ | .sm4Key _
  | .sm4Din _ => true

/-- The bits of a data register that a write reaches (R23, R31, R65). -/
def writableBits : Reg → Word
  | .pinf => 0xFF
  | .sm3Ctl => 0x1
  | .id | .cmd | .status | .ctrl | .sm4Dout _ | .sm4Rk _ | .sm3CntHi | .sm3CntLo | .v _ _ | .curve _ _
  | .sm3V _ | .sm3Buf _ | .sm4Key _ | .sm4Din _ => 0xFFFFFFFF

/-- The engine moves at this step, and `rest` are the events after it (R111). -/
abbrev EngineMoves (s : State) (rest : List Input) : Prop :=
  s.inputs = .engine :: rest ∨ (s.inputs = [] ∧ rest = [])

/-- The next event is a reset (R270): rst_n goes low, or a running machine takes a legal CTRL write with SRST. -/
abbrev ResetIsNext (s : State) : Prop :=
  (∃ rest : List Input, s.inputs = .rstPin false :: rest) ∨
  (Running s ∧ ∃ (x : Access) (rest : List Input), s.inputs = .access x :: rest ∧
    x.kind = .write ∧ x.off.toNat = 0x00C ∧ x.strb = 0xF ∧ x.data.getLsbD 1 = true)

/-- The rows of the S-box table (R210), column 0 the most significant byte of its row. -/
def sboxRows : Vector (BitVec 128) 16 :=
  #v[0xD690E9FECCE13DB716B614C228FB2C05, 0x2B679A762ABE04C3AA44132649860699,
    0x9C4250F491EF987A33540B43EDCFAC62, 0xE4B31CA9C908E89580DF94FA758F3FA6,
    0x4707A7FCF37317BA83593C19E6854FA8, 0x686B81B27164DA8BF8EB0F4B70569D35,
    0x1E240E5E6358D1A225227C3B01217887, 0xD40046579FD327524C3602E7A0C4C89E,
    0xEABF8AD240C738B5A3F7F2CEF96115A1, 0xE0AE5DA49B341A55AD933230F58CB1E3,
    0x1DF6E22E8266CA60C02923AB0D534E6F, 0xD5DB3745DEFD8E2F03FF6A726D6C5B51,
    0x8D1BAF92BBDDBC7F11D95C411F105AD8, 0x0AC13188A5CD7BBD2D74D012B8E5B4B0,
    0x8969974A0C96777E65B9F109C56EC684, 0x18F07DEC3ADC4D2079EE5F3ED7CB3948]

end Sys2Proof.Statements

open Sys2Proof.Statements

/-! ### Encoding (30_encoding.md) -/

/-- R90 to R97: decoding the encoding of a command gives the command back, with every operand. -/
def Obligations.DecodeInvertsEncode : Prop := ∀ i : Instr, decode (encode i) = .ok i

/-- R92, R94: a word that decodes is the encoding of what it decodes to: no bit of a legal word is ignored. -/
def Obligations.EncodeInvertsDecode : Prop := ∀ (w : Word) (i : Instr), decode w = .ok i → encode i = w

/-- R94: a word is legal if and only if some row matches under its mask; no two rows overlap; the row is that of the
decoded command; and an illegal word is accepted like any other and completes with ERR = 1 and no other effect. -/
def Obligations.LegalityIsTheOpcodeMap : Prop :=
  (∀ w : Word, (∃ i, decode w = .ok i) ↔ ∃ r ∈ opcodeRows, w &&& r.mask = r.op) ∧
  (∀ w : Word, (matchingRows w).length ≤ 1) ∧
  (∀ (w : Word) (i : Instr), decode w = .ok i →
    (matchingRows w).map (·.mnemonic) = [(disassemble i).mnemonic]) ∧
  (∀ (s : State) (w : Word) (e : Illegal), Idle s → decode w = .error e →
    engineTurn (hostAccess s (hostWR 0x004 w)) = .next (ended { s with cmdl := w } 1))

/-- R95: every opcode value outside R93 is reserved and illegal, and no word but 0 is a no-operation. -/
def Obligations.ReservedOpcodesAreIllegal : Prop :=
  (∀ w : Word, ((0x07 ≤ (opOf w).toNat ∧ (opOf w).toNat ≤ 0x0F) ∨ (0x15 ≤ (opOf w).toNat ∧ (opOf w).toNat ≤ 0x1F) ∨
    (0x23 ≤ (opOf w).toNat ∧ (opOf w).toNat ≤ 0x2F) ∨ 0x33 ≤ (opOf w).toNat) → ∃ e, decode w = .error e) ∧
  (∀ w : Word, decode w = .ok .nop → w = 0)

/-- R99: the words the spec writes out, one of every family and several illegal ones. -/
def Obligations.SpecWordsDecode : Prop :=
  decode 0x00000000 = .ok .nop ∧ decode 0x00021301 = .ok (.madd 3 1 2 0) ∧
  decode 0x00301405 = .ok (.minv 4 1 3) ∧ decode 0x00321006 = .ok (.mexp 0 1 2 3) ∧
  decode 0x00001210 = .ok (.ecadd 2 1 0) ∧ decode 0x00080312 = .ok (.ecmul 3 0 8) ∧
  decode 0x00001013 = .ok (.ecchk 1) ∧ decode 0x3F000022 = .ok (.sm3fin 63) ∧
  decode 0x00000032 = .ok .sm4dec ∧
  decode 0x000000FF = .error .reservedOp ∧ decode 0x40000001 = .error .reservedBits ∧
  decode 0x00011204 = .error .unusedField ∧ decode 0x00000810 = .error .pointRange

/-- R93, R97: the assembler takes exactly the written forms of the commands, each for its command. -/
def Obligations.AssemblerTakesExactlyTheForms : Prop :=
  ∀ (f : AsmForm) (i : Instr), assemble f = .ok i ↔ f = disassemble i

/-! ### Lifecycle (40_execution.md) -/

/-- R110: a legal write to CMD while idle accepts any word and changes nothing but the latch, PEND, BUSY, DONE and ERR;
while BUSY it is an access error. -/
def Obligations.AcceptLatchesTheWord : Prop :=
  ∀ (s : State) (c : Word), Running s →
    (s.busy = false → hostAccess s (hostWR 0x004 c) =
      { s with cmdl := c, pend := true, busy := true, done := false, err := 0 }) ∧
    (s.busy = true → hostAccess s (hostWR 0x004 c) = { s with aerr := true })

/-- R111, R112: when the latched word decodes to a command, the engine's step is `exec` of it, in the state whose
event has been taken and whose read answer is cleared. -/
def Obligations.StepRunsTheDecodedCommand : Prop :=
  ∀ (s : State) (rest : List Input) (i : Instr), Running s → s.pend = true → EngineMoves s rest →
    decode s.cmdl = .ok i → step s = exec i { s with inputs := rest, reply := none }

/-- R112: an illegal latched word completes with ERR = 1 and no writes. -/
def Obligations.StepCompletesAnIllegalWord : Prop :=
  ∀ (s : State) (rest : List Input) (e : Illegal), Running s → s.pend = true → EngineMoves s rest →
    decode s.cmdl = .error e → step s = .next (ended { s with inputs := rest, reply := none } 1)

/-- R111, R273, R254: with nothing in flight the engine's turn changes nothing: SMCORE waits. -/
def Obligations.IdleEngineWaits : Prop :=
  ∀ (s : State) (rest : List Input), s.pend = false → EngineMoves s rest →
    step s = .next { s with inputs := rest, reply := none }

/-- R60, R72, R240, R270: a step whose event is a host access performs that access, a step whose event is a level of
rst_n sets the pin, and no step stops the machine. -/
def Obligations.StepPerformsItsEvent : Prop :=
  (∀ (s : State) (x : Access) (rest : List Input), s.inputs = .access x :: rest →
    step s = .next (hostAccess { s with inputs := rest, reply := none } x)) ∧
  (∀ (s : State) (level : Bool) (rest : List Input), s.inputs = .rstPin level :: rest →
    step s = .next (setRstPin { s with inputs := rest, reply := none } level)) ∧
  (∀ s : State, ∃ t, step s = .next t)

/-- R111, R241, R243: every command completes, with BUSY and PEND cleared, DONE set and a defined code, and leaves the
latch, AERR, IE, the pin and the registers that only the host writes as they were. -/
def Obligations.EveryCommandCompletes : Prop :=
  ∀ (i : Instr) (s : State), ∃ t, exec i s = .next t ∧
    t.busy = false ∧ t.done = true ∧ t.pend = false ∧ t.err.toNat ≤ 5 ∧
    t.cmdl = s.cmdl ∧ t.aerr = s.aerr ∧ t.ie = s.ie ∧ t.rstN = s.rstN ∧ t.inputs = s.inputs ∧ t.reply = s.reply ∧
    t.sm3Buf = s.sm3Buf ∧ t.sm4Key = s.sm4Key ∧ t.sm4Din = s.sm4Din

/-- R113: a command that ends with an error code changes BUSY, DONE and ERR (and PEND, the flag behind BUSY) and nothing
else. The draw counter is the model's own field (assumption log 3). -/
def Obligations.CommandErrorsArePrecise : Prop :=
  ∀ (i : Instr) (s t : State), exec i s = .next t → t.err ≠ 0 → t = { ended s t.err with draws := t.draws }

/-- R115, R281: from every consistent state the events that are left run out, and the run ends with nothing in flight:
no command hangs. -/
def Obligations.FiniteInputsEndIdle : Prop :=
  ∀ s : State, Consistent s → ∃ t, Host.Core.run core (s.inputs.length + 1) s = .next t ∧ Ended t

/-! ### Invariants -/

/-- R271: the reset state is consistent. -/
def Obligations.ResetStateIsConsistent : Prop := Consistent State.reset

/-- R34, R35, R110, R241, R272: every step keeps the state consistent. -/
def Obligations.StepKeepsConsistent : Prop :=
  ∀ s t : State, Consistent s → step s = .next t → Consistent t

/-! ### The register port (10_state.md, 20_memory.md, 60_exceptions.md) -/

/-- R62, R67: the register map is exact: an offset is mapped to a register if and only if it is that register's offset,
and the aligned offsets that are unmapped are those of the three ranges. -/
def Obligations.RegisterMapIsExact : Prop :=
  (∀ (o : BitVec 12) (r : Reg), regAt o = some r ↔ o.toNat = offsetOf r) ∧
  (∀ o : BitVec 12, o.toNat % 4 = 0 → (regAt o = none ↔
    (0x020 ≤ o.toNat ∧ o.toNat ≤ 0x0FF) ∨ (0x410 ≤ o.toNat ∧ o.toNat ≤ 0x47F) ∨ 0x500 ≤ o.toNat))

/-- R61: the window is the 4 KiB from CORE_BASE, which is 4 KiB aligned, whatever CORE_BASE is. -/
def Obligations.WindowIsFourKilobytes : Prop :=
  Config.coreBase % 4096 = 0 ∧
  (∀ o : BitVec 12, windowOffset (Config.coreBase + o.toNat) = some o) ∧
  (∀ x : Nat, (x < Config.coreBase ∨ Config.coreBase + 4096 ≤ x) → windowOffset x = none)

/-- R242: each of A1 to A5 sets AERR, a read among them answers 0, and nothing else changes; any other access leaves
AERR clear where it was clear; and a set AERR falls only by a STATUS write of bit 2 or by a soft reset. -/
def Obligations.AccessErrorsAreA1ToA5 : Prop :=
  ∀ (s : State) (x : Access), Running s →
    (IsAccessError s x → hostAccess s x =
      { s with aerr := true, reply := if x.kind = .read then some 0 else s.reply }) ∧
    (¬ IsAccessError s x → s.aerr = false → (hostAccess s x).aerr = false) ∧
    (s.aerr = true → (hostAccess s x).aerr = false → x.kind = .write ∧
      ((x.off.toNat = 0x008 ∧ x.data.getLsbD 2 = true) ∨ (x.off.toNat = 0x00C ∧ x.data.getLsbD 1 = true)))

/-- R64: a legal read at a mapped offset answers the register's value and has no side effect, BUSY or not; CMD answers
the latch, ID its constant (R27), CTRL.SRST reads 0; any other read answers 0 and sets AERR. -/
def Obligations.ReadsAnswerAndChangeNothing : Prop :=
  (∀ (s : State) (x : Access) (r : Reg), Running s → x.kind = .read → x.off.toNat = offsetOf r →
    hostAccess s x = { s with reply := some (readReg s r) }) ∧
  (∀ (s : State) (x : Access), Running s → x.kind = .read → (∀ r : Reg, x.off.toNat ≠ offsetOf r) →
    hostAccess s x = { s with aerr := true, reply := some 0 }) ∧
  (∀ s : State, readReg s .cmd = s.cmdl ∧ readReg s .id = 0x534D4301 ∧ (readReg s .ctrl).getLsbD 1 = false)

/-- R29: where a read of STATUS shows each field, with 0 in every reserved bit. -/
def Obligations.StatusFieldsStandWhereR29Says : Prop :=
  ∀ s : State,
    (readReg s .status).getLsbD 0 = s.busy ∧ (readReg s .status).getLsbD 1 = s.done ∧
    (readReg s .status).getLsbD 2 = s.aerr ∧ (readReg s .status).getLsbD 3 = false ∧
    (readReg s .status).extractLsb' 4 4 = s.err ∧ (readReg s .status).extractLsb' 8 3 = s.chk ∧
    (readReg s .status).getLsbD 11 = false ∧ (readReg s .status).getLsbD 12 = s.sm3Active ∧
    (readReg s .status).getLsbD 13 = s.keyValid ∧ (readReg s .status).extractLsb' 14 18 = 0

/-- R29, R30, R65, R66: a STATUS write clears DONE and AERR by its bits 1 and 2, a CTRL write without SRST sets IE, idle
or BUSY, and neither changes anything else. -/
def Obligations.StatusAndCtrlWrites : Prop :=
  ∀ (s : State) (w : Word), Running s →
    hostAccess s (hostWR 0x008 w) =
      { s with done := if w.getLsbD 1 then false else s.done, aerr := if w.getLsbD 2 then false else s.aerr } ∧
    (w.getLsbD 1 = false → hostAccess s (hostWR 0x00C w) = { s with ie := w.getLsbD 0 })

/-- R65: an idle write to a data register reads back with its reserved bits 0; every other register of the window reads
as before, but STATUS where SM3_CTL was written, which shows ACTIVE too (R31). -/
def Obligations.IdleWritesReachOneRegister : Prop :=
  ∀ (s : State) (x : Access) (r : Reg), Idle s → isData r = true → x.kind = .write → x.strb = 0xF →
    x.off.toNat = offsetOf r →
    readReg (hostAccess s x) r = x.data &&& writableBits r ∧
    (∀ q : Reg, q ≠ r → ¬ (q = .status ∧ r = .sm3Ctl) → readReg (hostAccess s x) q = readReg s q) ∧
    (hostAccess s x).reply = s.reply ∧ (hostAccess s x).pend = s.pend ∧ (hostAccess s x).draws = s.draws

/-- R66: while BUSY a write to any register but STATUS and CTRL is refused, and no access but a soft reset changes a
register that a command reads or writes, the command in flight or its latch. -/
def Obligations.BusyProtectsTheCommand : Prop :=
  ∀ (s : State) (x : Access), Running s → s.busy = true →
    (x.kind = .write → x.off.toNat ≠ 0x008 → x.off.toNat ≠ 0x00C → hostAccess s x = { s with aerr := true }) ∧
    (¬ (x.kind = .write ∧ x.off.toNat = 0x00C ∧ x.strb = 0xF ∧ x.data.getLsbD 1 = true) →
      hostAccess s x = { s with
        done := (hostAccess s x).done, aerr := (hostAccess s x).aerr, ie := (hostAccess s x).ie,
        reply := (hostAccess s x).reply })

/-- R21: a 256-bit register's value is the sum of its words, word 0 the most significant, for V0..V15 and the curve
parameter registers. -/
def Obligations.WideRegistersAreBigEndian : Prop :=
  ∀ s : State,
    (∀ i : VReg, (s.v[i]).toNat = ∑ j : Fin 8, (readReg s (.v i j)).toNat * 2 ^ (32 * (7 - j.val))) ∧
    (∀ c : CurveReg, (getCurve s c).toNat = ∑ j : Fin 8, (readReg s (.curve c j)).toNat * 2 ^ (32 * (7 - j.val)))

/-- R68, R98: WRV loads a V register and nothing else, WRC a curve register, and the words RDV reads assemble to the
register's value. -/
def Obligations.WideLoadsRoundTrip : Prop :=
  (∀ (s : State) (i : VReg) (x : Big), Idle s → hostRun s (hostWRV i x) = { s with v := s.v.set i x }) ∧
  (∀ (s : State) (c : CurveReg) (x : Big), Idle s → hostRun s (hostWRC c x) = setCurve s c x) ∧
  (∀ (s : State) (i : VReg), bigOfWords ((hostRDV i).map (readAnswer s)) = (s.v[i]).toNat)

/-- R69: byte 4j + t of a block is bits 31 − 8t down to 24 − 8t of its word j. -/
def Obligations.BytesPackBigEndian : Prop :=
  ∀ (m : Vector Word 16) (j : Fin 16) (t : Fin 4),
    (bufBytes m)[4 * j.val + t.val]? = some ((m[j]).extractLsb' (24 - 8 * t.val) 8)

/-! ### Reset and interrupt (70_reset_and_hazards.md, 60_exceptions.md) -/

/-- R271: a reset, soft or hard, sets every register to its reset value and aborts the command in flight; ID keeps its
constant and irq is 0. -/
def Obligations.ResetClearsEverything : Prop :=
  (∀ (s : State) (w : Word), Running s → w.getLsbD 1 = true →
    hostAccess s (hostWR 0x00C w) = clearedState s true) ∧
  (∀ s : State, setRstPin s false = clearedState s false) ∧
  (∀ (s : State) (level : Bool), readReg (clearedState s level) .id = 0x534D4301 ∧
    irq (clearedState s level) = false)

/-- R272: while rst_n = 0 no access is taken: a read answers 0, a write has no effect, AERR is not set, and the engine
does not move. -/
def Obligations.AccessesInResetAreNotTaken : Prop :=
  ∀ (s : State) (x : Access), s.rstN = false →
    (x.kind = .read → hostAccess s x = { s with reply := some 0 }) ∧
    (x.kind = .write → hostAccess s x = s) ∧ engineTurn s = .next s

/-- R273: the reset state waits, and in it SM3BLK and SM3FIN fail with 4, SM4ENC and SM4DEC with 5, ECCHK with 2, and
the domain is invalid. -/
def Obligations.ResetStateWaitsAndRefuses : Prop :=
  step State.reset = .next State.reset ∧
  exec .sm3blk State.reset = .next (ended State.reset 4) ∧
  (∀ n : Len, exec (.sm3fin n) State.reset = .next (ended State.reset 4)) ∧
  exec .sm4enc State.reset = .next (ended State.reset 5) ∧
  exec .sm4dec State.reset = .next (ended State.reset 5) ∧
  (∀ k : PReg, exec (.ecchk k) State.reset = .next (ended State.reset 2)) ∧ ¬ VD State.reset

/-- R36, R244, R282: irq is IE and DONE; every completion, that of an illegal latched word (R112) too, leaves it equal
to IE; it falls by a DONE clear, an accept, an IE clear and either reset; it rises where IE is set while DONE is 1; an
access error leaves it as it was. -/
def Obligations.IrqRisesAndFalls : Prop :=
  (∀ s : State, irq s = (s.ie && s.done)) ∧
  (∀ (i : Instr) (s t : State), exec i s = .next t → irq t = s.ie) ∧
  (∀ s : State, Running s → s.pend = true → ∃ t, engineTurn s = .next t ∧ irq t = s.ie) ∧
  (∀ (s : State) (w : Word), Running s →
    (w.getLsbD 1 = true → irq (hostAccess s (hostWR 0x008 w)) = false) ∧
    (s.busy = false → irq (hostAccess s (hostWR 0x004 w)) = false) ∧
    (w.getLsbD 0 = false → irq (hostAccess s (hostWR 0x00C w)) = false) ∧
    (w.getLsbD 1 = true → irq (hostAccess s (hostWR 0x00C w)) = false) ∧
    (w.getLsbD 0 = true → w.getLsbD 1 = false → irq (hostAccess s (hostWR 0x00C w)) = s.done)) ∧
  (∀ s : State, irq (setRstPin s false) = false) ∧
  (∀ (s : State) (x : Access), Running s → IsAccessError s x → irq (hostAccess s x) = irq s)

/-! ### Whole-machine rules -/

/-- R29: STATUS.CHK is written only by ECCHK. -/
def Obligations.OnlyEcchkWritesChk : Prop :=
  ∀ (i : Instr) (s t : State), (∀ k, i ≠ .ecchk k) → exec i s = .next t → t.chk = s.chk

/-- R34, R271: a step leaves SM4_RK and KEYVALID as they are, or its event is a reset and clears them, or it is the
completion of an SM4KEY in flight. -/
def Obligations.RoundKeysChangeOnlyBySm4key : Prop :=
  ∀ s t : State, step s = .next t →
    (t.sm4Rk = s.sm4Rk ∧ t.keyValid = s.keyValid) ∨
    (ResetIsNext s ∧ t.sm4Rk = Vector.replicate 32 0 ∧ t.keyValid = false) ∨
    (Running s ∧ s.pend = true ∧ decode s.cmdl = .ok .sm4key ∧ t.keyValid = true ∧
      ∃ rest : List Input, EngineMoves s rest ∧ exec .sm4key { s with inputs := rest, reply := none } = .next t)

/-! ### NOP and modular arithmetic (40_execution.md, 41_bigint_modular.md) -/

/-- R117: NOP completes with no writes, and irq rises where IE is 1; its word is 0, and a word with OP 0x00 and any
other bit set is illegal and completes with ERR = 1. -/
def Obligations.NopCompletes : Prop :=
  (∀ s : State, exec .nop s = .next (ended s 0) ∧ irq (ended s 0) = s.ie) ∧
  WordIs .nop 0x00 0 0 0 0 0 ∧ encode .nop = 0 ∧
  (∀ w : Word, opOf w = 0 → w ≠ 0 → (∃ e, decode w = .error e) ∧
    ∀ s : State, Running s → s.pend = true → s.cmdl = w → engineTurn s = .next (ended s 1))

/-- R131: MADD writes (a + b) mod m, exactly; m = 0 is ERR 2. -/
def Obligations.MaddWritesTheSum : Prop :=
  ∀ (vd va vb vm : VReg) (s : State),
    WordIs (.madd vd va vb vm) 0x01 vd va vb vm 0 ∧
    (s.v[vm] = 0 → exec (.madd vd va vb vm) s = .next (ended s 2)) ∧
    (s.v[vm] ≠ 0 → ∃ r : Big, r.toNat = ((s.v[va]).toNat + (s.v[vb]).toNat) % (s.v[vm]).toNat ∧
      exec (.madd vd va vb vm) s = .next (ended { s with v := s.v.set vd r } 0))

/-- R132: MSUB writes (a − b) mod m, never negative; m = 0 is ERR 2. -/
def Obligations.MsubWritesTheDifference : Prop :=
  ∀ (vd va vb vm : VReg) (s : State),
    WordIs (.msub vd va vb vm) 0x02 vd va vb vm 0 ∧
    (s.v[vm] = 0 → exec (.msub vd va vb vm) s = .next (ended s 2)) ∧
    (s.v[vm] ≠ 0 → ∃ r : Big, (r.toNat : Int) = (((s.v[va]).toNat : Int) - (s.v[vb]).toNat) % ((s.v[vm]).toNat : Int) ∧
      exec (.msub vd va vb vm) s = .next (ended { s with v := s.v.set vd r } 0))

/-- R133: MMUL writes (a · b) mod m, exactly; m = 0 is ERR 2. -/
def Obligations.MmulWritesTheProduct : Prop :=
  ∀ (vd va vb vm : VReg) (s : State),
    WordIs (.mmul vd va vb vm) 0x03 vd va vb vm 0 ∧
    (s.v[vm] = 0 → exec (.mmul vd va vb vm) s = .next (ended s 2)) ∧
    (s.v[vm] ≠ 0 → ∃ r : Big, r.toNat = ((s.v[va]).toNat * (s.v[vb]).toNat) % (s.v[vm]).toNat ∧
      exec (.mmul vd va vb vm) s = .next (ended { s with v := s.v.set vd r } 0))

/-- R134: MRED writes a mod m; m = 0 is ERR 2. -/
def Obligations.MredWritesTheRemainder : Prop :=
  ∀ (vd va vm : VReg) (s : State),
    WordIs (.mred vd va vm) 0x04 vd va 0 vm 0 ∧
    (s.v[vm] = 0 → exec (.mred vd va vm) s = .next (ended s 2)) ∧
    (s.v[vm] ≠ 0 → ∃ r : Big, r.toNat = (s.v[va]).toNat % (s.v[vm]).toNat ∧
      exec (.mred vd va vm) s = .next (ended { s with v := s.v.set vd r } 0))

/-- R135: MINV writes the unique inverse of a modulo m in [0, m); m = 0 is ERR 2 and comes first; gcd(a mod m, m) ≠ 1 is
ERR 3. -/
def Obligations.MinvWritesTheInverse : Prop :=
  ∀ (vd va vm : VReg) (s : State),
    WordIs (.minv vd va vm) 0x05 vd va 0 vm 0 ∧
    (s.v[vm] = 0 → exec (.minv vd va vm) s = .next (ended s 2)) ∧
    (s.v[vm] ≠ 0 → Nat.gcd ((s.v[va]).toNat % (s.v[vm]).toNat) (s.v[vm]).toNat ≠ 1 →
      exec (.minv vd va vm) s = .next (ended s 3)) ∧
    (s.v[vm] ≠ 0 → Nat.gcd ((s.v[va]).toNat % (s.v[vm]).toNat) (s.v[vm]).toNat = 1 →
      ∃ r : Big, (r.toNat < (s.v[vm]).toNat ∧
        (s.v[va]).toNat * r.toNat % (s.v[vm]).toNat = 1 % (s.v[vm]).toNat) ∧
      (∀ x : Nat, x < (s.v[vm]).toNat → (s.v[va]).toNat * x % (s.v[vm]).toNat = 1 % (s.v[vm]).toNat → x = r.toNat) ∧
      exec (.minv vd va vm) s = .next (ended { s with v := s.v.set vd r } 0))

/-- R136: MEXP writes a^e mod m for every 256-bit exponent, with a^0 = 1; m = 0 is ERR 2. -/
def Obligations.MexpWritesThePower : Prop :=
  ∀ (vd va ve vm : VReg) (s : State),
    WordIs (.mexp vd va ve vm) 0x06 vd va ve vm 0 ∧
    (s.v[vm] = 0 → exec (.mexp vd va ve vm) s = .next (ended s 2)) ∧
    (s.v[vm] ≠ 0 → ∃ r : Big, r.toNat = (s.v[va]).toNat ^ (s.v[ve]).toNat % (s.v[vm]).toNat ∧
      exec (.mexp vd va ve vm) s = .next (ended { s with v := s.v.set vd r } 0))

/-- R137: the laws of the family: MADD commutes; MSUB is MADD of m − (b mod m); MRED is MADD of 0; MMUL by what MINV
wrote gives 1 mod m; MEXP of a sum of exponents is MMUL of the two powers. -/
def Obligations.ArithmeticLawsOfR137 : Prop :=
  (∀ (vd va vb vm : VReg) (s : State), exec (.madd vd va vb vm) s = exec (.madd vd vb va vm) s) ∧
  (∀ (vd va vb vc vm : VReg) (s : State), s.v[vm] ≠ 0 →
    (s.v[vc]).toNat = (s.v[vm]).toNat - (s.v[vb]).toNat % (s.v[vm]).toNat →
    exec (.msub vd va vb vm) s = exec (.madd vd va vc vm) s) ∧
  (∀ (vd va vz vm : VReg) (s : State), s.v[vz] = 0 → exec (.mred vd va vm) s = exec (.madd vd va vz vm) s) ∧
  (∀ (vd vi va vm : VReg) (s : State), vi ≠ va → vi ≠ vm → s.v[vm] ≠ 0 →
    Nat.gcd (s.v[va]).toNat (s.v[vm]).toNat = 1 → ∃ t u, exec (.minv vi va vm) s = .next t ∧
      exec (.mmul vd va vi vm) t = .next u ∧ (u.v[vd]).toNat = 1 % (s.v[vm]).toNat) ∧
  (∀ (vd va v1 v2 v3 vm : VReg) (s : State), s.v[vm] ≠ 0 → (s.v[v3]).toNat = (s.v[v1]).toNat + (s.v[v2]).toNat →
    ∃ t1 t2 t3, exec (.mexp vd va v1 vm) s = .next t1 ∧ exec (.mexp vd va v2 vm) s = .next t2 ∧
      exec (.mexp vd va v3 vm) s = .next t3 ∧
      (t3.v[vd]).toNat = (t1.v[vd]).toNat * (t2.v[vd]).toNat % (s.v[vm]).toNat)

/-! ### Elliptic-curve points (42_ec_point.md) -/

/-- R154, R22: a point result reads back from its point register, O as INF = 1 with zero coordinates; the other
infinity bits and every other V register are unchanged. -/
def Obligations.WritePointReadsBack : Prop :=
  ∀ (s : State) (k : PReg) (r : Point),
    readPoint (writePoint s k r) k = r ∧
    (r = .inf → (writePoint s k r).v[xReg k] = 0 ∧ (writePoint s k r).v[yReg k] = 0) ∧
    (∀ l : Nat, l ≠ k.val → (writePoint s k r).pinf.getLsbD l = s.pinf.getLsbD l) ∧
    (∀ i : VReg, i ≠ xReg k → i ≠ yReg k → (writePoint s k r).v[i] = s.v[i])

/-- R153, R155, R156: on a valid domain and valid points ECADD completes with the sum of the two points, written to Pd;
otherwise with one of the outcomes of R155, whichever it is (assumption log 3). -/
def Obligations.EcaddWritesTheSum : Prop :=
  ∀ (pd p1 p2 : PReg) (s : State),
    WordIs (.ecadd pd p1 p2) 0x10 pd p1 p2 0 0 ∧
    (VD s → VP s p1 → VP s p2 → ∃ r : Point, IsSum (p s) (a s) (readPoint s p1) (readPoint s p2) r ∧
      exec (.ecadd pd p1 p2) s = .next (ended (writePoint s pd r) 0)) ∧
    (¬ (VD s ∧ VP s p1 ∧ VP s p2) → ∃ t, exec (.ecadd pd p1 p2) s = .next t ∧ IsDraw s pd t)

/-- R153, R155, R157: on a valid domain and a valid point ECDBL completes with the sum of the point with itself;
otherwise with one of the outcomes of R155, whichever it is (assumption log 3). -/
def Obligations.EcdblWritesTheDouble : Prop :=
  ∀ (pd p1 : PReg) (s : State),
    WordIs (.ecdbl pd p1) 0x11 pd p1 0 0 0 ∧
    (VD s → VP s p1 → ∃ r : Point, IsSum (p s) (a s) (readPoint s p1) (readPoint s p1) r ∧
      exec (.ecdbl pd p1) s = .next (ended (writePoint s pd r) 0)) ∧
    (¬ (VD s ∧ VP s p1) → ∃ t, exec (.ecdbl pd p1) s = .next t ∧ IsDraw s pd t)

/-- R155, R158, R162: on a valid domain and a valid point ECMUL completes with the result of R162's double-and-add over
the 256 bits of the scalar, read before the commit; otherwise with one of the outcomes of R155, whichever it is
(assumption log 3). -/
def Obligations.EcmulRunsTheReference : Prop :=
  ∀ (pd p1 : PReg) (vk : VReg) (s : State),
    WordIs (.ecmul pd p1 vk) 0x12 pd p1 vk 0 0 ∧
    (VD s → VP s p1 → exec (.ecmul pd p1 vk) s = .next (ended (writePoint s pd
      ((List.range 256).reverse.foldl
        (fun q n => if (s.v[vk]).getLsbD n then ecAdd (p s) (a s) (ecDbl (p s) (a s) q) (readPoint s p1)
          else ecDbl (p s) (a s) q) Point.inf)) 0)) ∧
    (¬ (VD s ∧ VP s p1) → ∃ t, exec (.ecmul pd p1 vk) s = .next t ∧ IsDraw s pd t)

/-- R153: on a valid domain the sum and the double of valid points are valid points: a non-infinity result lies on the
curve, with reduced coordinates. -/
def Obligations.PointResultsLieOnTheCurve : Prop :=
  ∀ (p a b : Nat) (q r : Point), p < 2 ^ 256 → validDomainOf p a b = true →
    validPointOf p a b q = true → validPointOf p a b r = true →
    validPointOf p a b (ecAdd p a q r) = true ∧ validPointOf p a b (ecDbl p a q) = true

/-- R153, R162: on a valid domain the double-and-add gives the k-fold sum of a valid point, for every 256-bit k. -/
def Obligations.DoubleAndAddIsTheKFoldSum : Prop :=
  ∀ (p a b k : Nat) (q : Point), p < 2 ^ 256 → k < 2 ^ 256 → validDomainOf p a b = true →
    validPointOf p a b q = true → ecMulRef p a k q = ecMul p a k q

/-- R163: on a valid domain with a valid point ECADD of a point register with itself is ECDBL, and ECMUL by 0 gives O;
and on the curve that ECLDSM2 loads, ECMUL of its G, in any point register, by its n, in any V register, gives O. -/
def Obligations.EcLawsOfR163 : Prop :=
  (∀ (pd p1 : PReg) (s : State), VD s → VP s p1 → exec (.ecadd pd p1 p1) s = exec (.ecdbl pd p1) s) ∧
  (∀ (pd p1 : PReg) (vk : VReg) (s : State), VD s → VP s p1 → s.v[vk] = 0 →
    exec (.ecmul pd p1 vk) s = .next (ended (writePoint s pd .inf) 0)) ∧
  (∀ (p0 : PReg) (s : State), ∃ t, exec (.ecldsm2 p0) s = .next t ∧
    ∀ (pd p1 : PReg) (vk : VReg) (u : State), u.cp = t.cp → u.ca = t.ca → u.cb = t.cb →
      readPoint u p1 = readPoint t p0 → u.v[vk] = t.cn →
      exec (.ecmul pd p1 vk) u = .next (ended (writePoint u pd .inf) 0))

/-- R159: ECCHK writes ON_CURVE, RANGE_OK and NOT_INF to STATUS.CHK, from the raw coordinates; CP = 0 is ERR 2. -/
def Obligations.EcchkWritesTheThreeBits : Prop :=
  ∀ (k : PReg) (s : State),
    WordIs (.ecchk k) 0x13 0 k 0 0 0 ∧
    (s.cp = 0 → exec (.ecchk k) s = .next (ended s 2)) ∧
    (s.cp ≠ 0 → ∃ c : BitVec 3, exec (.ecchk k) s = .next (ended { s with chk := c } 0) ∧
      (c.getLsbD 0 = true ↔ s.pinf.getLsbD k.val = false) ∧
      (c.getLsbD 1 = true ↔ (s.v[xReg k]).toNat < p s ∧ (s.v[yReg k]).toNat < p s) ∧
      (c.getLsbD 2 = true ↔ (((s.v[yReg k]).toNat : Int) ^ 2 -
        (((s.v[xReg k]).toNat : Int) ^ 3 + a s * (s.v[xReg k]).toNat + b s)) % (p s : Int) = 0))

/-- R161, R160: ECLDSM2 loads the SM2 parameters and G; after it the domain is valid and Pd is a valid point. -/
def Obligations.Ecldsm2LoadsAValidCurve : Prop :=
  ∀ (pd : PReg) (s : State), WordIs (.ecldsm2 pd) 0x14 pd 0 0 0 0 ∧ ∃ t, exec (.ecldsm2 pd) s = .next t ∧
    t = ended (writePoint { s with
      cp := 0xFFFFFFFEFFFFFFFFFFFFFFFFFFFFFFFFFFFFFFFF00000000FFFFFFFFFFFFFFFF
      ca := 0xFFFFFFFEFFFFFFFFFFFFFFFFFFFFFFFFFFFFFFFF00000000FFFFFFFFFFFFFFFC
      cb := 0x28E9FA9E9D9F5E344D5A9E4BCF6509A7F39789F515AB8F92DDBCBD414D940E93
      cn := 0xFFFFFFFEFFFFFFFFFFFFFFFFFFFFFFFF7203DF6B21C6052B53BBF40939D54123 } pd
      (.affine 0x32C4AE2C1F1981195F9904466A39C9948FE30BBFF2660BE1715A4589334C74C7
        0xBC3736A2F4F6779C59BDCEE36B692153D0A9877CC62A474002DF32E52139F0A0)) 0 ∧
    VD t ∧ VP t pd

/-! ### SM3 (43_sm3.md) -/

/-- R188: SM3INIT loads the IV, clears CNT and sets ACTIVE, whatever ACTIVE was. -/
def Obligations.Sm3initLoadsTheIv : Prop :=
  WordIs .sm3init 0x20 0 0 0 0 0 ∧ ∀ s : State, exec .sm3init s = .next (ended { s with
    sm3V := #v[0x7380166F, 0x4914B2B9, 0x172442D7, 0xDA8A0600, 0xA96F30BC, 0x163138AA, 0xE38DEE4D, 0xB0FB0E4E]
    sm3Cnt := 0
    sm3Active := true } 0)

/-- R180, R182 to R186: the compression function, by its message expansion and its sixty-four rounds written out, and
the rotation, the boolean functions and the permutations it uses. -/
def Obligations.CompressionFollowsR186 : Prop :=
  (∀ (x : Word) (n i : Nat), i < 32 → (rotl x n).getLsbD i = x.getLsbD ((i + (32 - n % 32)) % 32)) ∧
  (∀ (j : Nat) (x y z : Word), j ≤ 15 → sm3FF j x y z = x ^^^ y ^^^ z ∧ sm3GG j x y z = x ^^^ y ^^^ z) ∧
  (∀ (j : Nat) (x y z : Word), 16 ≤ j → j ≤ 63 →
    sm3FF j x y z = (x &&& y) ||| (x &&& z) ||| (y &&& z) ∧ sm3GG j x y z = (x &&& y) ||| (~~~x &&& z)) ∧
  (∀ x : Word, sm3P0 x = x ^^^ rotl x 9 ^^^ rotl x 17) ∧
  (∀ x : Word, sm3P1 x = x ^^^ rotl x 15 ^^^ rotl x 23) ∧
  ∀ (v : Vector Word 8) (m : Vector Word 16), ∃ (w : Nat → Word) (r : Nat → Sm3Vars),
    (∀ i : Fin 16, w i.val = m[i.val]) ∧
    (∀ i, 16 ≤ i → i ≤ 67 → w i =
      sm3P1 (w (i - 16) ^^^ w (i - 9) ^^^ rotl (w (i - 3)) 15) ^^^ rotl (w (i - 13)) 7 ^^^ w (i - 6)) ∧
    r 0 = ⟨v[0], v[1], v[2], v[3], v[4], v[5], v[6], v[7]⟩ ∧
    (∀ j, j < 64 → ∃ ss1 ss2 tt1 tt2 : Word,
      ss1 = rotl (rotl (r j).a 12 + (r j).e + rotl (if j ≤ 15 then 0x79CC4519 else 0x7A879D8A) (j % 32)) 7 ∧
      ss2 = ss1 ^^^ rotl (r j).a 12 ∧
      tt1 = sm3FF j (r j).a (r j).b (r j).c + (r j).d + ss2 + (w j ^^^ w (j + 4)) ∧
      tt2 = sm3GG j (r j).e (r j).f (r j).g + (r j).h + ss1 + w j ∧
      r (j + 1) = ⟨tt1, (r j).a, rotl (r j).b 9, (r j).c, sm3P0 tt2, (r j).e, rotl (r j).f 19, (r j).g⟩) ∧
    sm3CF v m = #v[(r 64).a ^^^ v[0], (r 64).b ^^^ v[1], (r 64).c ^^^ v[2], (r 64).d ^^^ v[3],
      (r 64).e ^^^ v[4], (r 64).f ^^^ v[5], (r 64).g ^^^ v[6], (r 64).h ^^^ v[7]]

/-- R189: SM3BLK compresses the buffer into the running hash and adds 64 to CNT; ACTIVE = 0 is ERR 4. -/
def Obligations.Sm3blkAbsorbsTheBlock : Prop :=
  WordIs .sm3blk 0x21 0 0 0 0 0 ∧ ∀ s : State,
    (s.sm3Active = false → exec .sm3blk s = .next (ended s 4)) ∧
    (s.sm3Active = true → exec .sm3blk s =
      .next (ended { s with sm3V := sm3CF s.sm3V s.sm3Buf, sm3Cnt := s.sm3Cnt + 64 } 0))

/-- R187, R190: SM3FIN compresses the blocks whose bytes are the L bytes left, 0x80, the zeros and the bit length as
eight big-endian bytes; it sets CNT and clears ACTIVE; ACTIVE = 0 is ERR 4. -/
def Obligations.Sm3finPadsAndFinishes : Prop :=
  ∀ (n : Len) (s : State),
    WordIs (.sm3fin n) 0x22 0 0 0 0 n ∧
    (s.sm3Active = false → exec (.sm3fin n) s = .next (ended s 4)) ∧
    (s.sm3Active = true → ∃ blocks : List (Vector Word 16),
      blocks.length = (if n.val ≤ 55 then 1 else 2) ∧
      blocks.flatMap bufBytes =
        (bufBytes s.sm3Buf).take n.val ++ [0x80] ++
          List.replicate (if n.val ≤ 55 then 55 - n.val else 119 - n.val) 0 ++
          (List.range 8).map (fun t =>
            BitVec.ofNat 8 (8 * ((s.sm3Cnt.toNat + n.val) % 2 ^ 64) % 2 ^ 64 / 2 ^ (8 * (7 - t)))) ∧
      exec (.sm3fin n) s = .next (ended { s with
        sm3V := blocks.foldl sm3CF s.sm3V
        sm3Cnt := BitVec.ofNat 64 (s.sm3Cnt.toNat + n.val)
        sm3Active := false } 0))

/-- R187, R191, U11: the results of SM3BLK and SM3FIN depend only on the running hash, CNT, ACTIVE and the buffer, of
which SM3FIN reads only the first L bytes. -/
def Obligations.Sm3ResultsDependOnTheContext : Prop :=
  ∀ s s' : State, s.sm3V = s'.sm3V → s.sm3Cnt = s'.sm3Cnt → s.sm3Active = s'.sm3Active →
    (s.sm3Buf = s'.sm3Buf → ∃ t t', exec .sm3blk s = .next t ∧ exec .sm3blk s' = .next t' ∧
      t.sm3V = t'.sm3V ∧ t.sm3Cnt = t'.sm3Cnt ∧ t.sm3Active = t'.sm3Active ∧ t.err = t'.err) ∧
    (∀ n : Len, (bufBytes s.sm3Buf).take n.val = (bufBytes s'.sm3Buf).take n.val →
      ∃ t t', exec (.sm3fin n) s = .next t ∧ exec (.sm3fin n) s' = .next t' ∧
        t.sm3V = t'.sm3V ∧ t.sm3Cnt = t'.sm3Cnt ∧ t.sm3Active = t'.sm3Active ∧ t.err = t'.err)

/-! ### SM4 (44_sm4.md) -/

/-- R213 to R215, R217: SM4KEY writes the round keys of the rolling window and sets KEYVALID, and nothing else. -/
def Obligations.Sm4keyExpandsTheKey : Prop :=
  WordIs .sm4key 0x30 0 0 0 0 0 ∧ ∀ s : State, ∃ k : Nat → Word,
    k 0 = s.sm4Key[0] ^^^ 0xA3B1BAC6 ∧ k 1 = s.sm4Key[1] ^^^ 0x56AA3350 ∧
    k 2 = s.sm4Key[2] ^^^ 0x677D9197 ∧ k 3 = s.sm4Key[3] ^^^ 0xB27022DC ∧
    (∀ i, i < 32 → k (i + 4) = k i ^^^ sm4T' (k (i + 1) ^^^ k (i + 2) ^^^ k (i + 3) ^^^
      BitVec.ofNat 32 ((4 * i) * 7 % 256 * 2 ^ 24 + (4 * i + 1) * 7 % 256 * 2 ^ 16 +
        (4 * i + 2) * 7 % 256 * 2 ^ 8 + (4 * i + 3) * 7 % 256))) ∧
    exec .sm4key s = .next (ended { s with sm4Rk := Vector.ofFn fun i => k (i.val + 4), keyValid := true } 0)

/-- R216, R218: SM4ENC writes the block transform of SM4_DIN under the round keys; KEYVALID = 0 is ERR 5. -/
def Obligations.Sm4encTransformsTheBlock : Prop :=
  WordIs .sm4enc 0x31 0 0 0 0 0 ∧ ∀ s : State,
    (s.keyValid = false → exec .sm4enc s = .next (ended s 5)) ∧
    (s.keyValid = true → ∃ x : Nat → Word, (∀ i : Fin 4, x i.val = s.sm4Din[i.val]) ∧
      (∀ i : Fin 32, x (i.val + 4) =
        x i.val ^^^ sm4T (x (i.val + 1) ^^^ x (i.val + 2) ^^^ x (i.val + 3) ^^^ s.sm4Rk[i.val])) ∧
      exec .sm4enc s = .next (ended { s with sm4Dout := #v[x 35, x 34, x 33, x 32] } 0))

/-- R216, R219: SM4DEC is the block transform under the round keys in reverse order; KEYVALID = 0 is ERR 5. -/
def Obligations.Sm4decTransformsTheBlock : Prop :=
  WordIs .sm4dec 0x32 0 0 0 0 0 ∧ ∀ s : State,
    (s.keyValid = false → exec .sm4dec s = .next (ended s 5)) ∧
    (s.keyValid = true → ∃ x : Nat → Word, (∀ i : Fin 4, x i.val = s.sm4Din[i.val]) ∧
      (∀ i : Fin 32, x (i.val + 4) =
        x i.val ^^^ sm4T (x (i.val + 1) ^^^ x (i.val + 2) ^^^ x (i.val + 3) ^^^ s.sm4Rk[31 - i.val])) ∧
      exec .sm4dec s = .next (ended { s with sm4Dout := #v[x 35, x 34, x 33, x 32] } 0))

/-- R220: after SM4KEY, SM4ENC on a block and then SM4DEC on the result give the block, and SM4DEC then SM4ENC do too,
for every key and block, with any states between them that keep the round keys and KEYVALID. -/
def Obligations.Sm4RoundTrips : Prop :=
  ∀ s : State, ∃ s1, exec .sm4key s = .next s1 ∧ s1.keyValid = true ∧
    (∀ u : State, u.sm4Rk = s1.sm4Rk → u.keyValid = true → ∃ t, exec .sm4enc u = .next t ∧
      ∀ w : State, w.sm4Rk = s1.sm4Rk → w.keyValid = true → w.sm4Din = t.sm4Dout →
        ∃ z, exec .sm4dec w = .next z ∧ z.sm4Dout = u.sm4Din) ∧
    (∀ u : State, u.sm4Rk = s1.sm4Rk → u.keyValid = true → ∃ t, exec .sm4dec u = .next t ∧
      ∀ w : State, w.sm4Rk = s1.sm4Rk → w.keyValid = true → w.sm4Din = t.sm4Dout →
        ∃ z, exec .sm4enc w = .next z ∧ z.sm4Dout = u.sm4Din)

/-- R210 to R212: the S-box is R210's table, a permutation of the bytes; the round functions apply it to each byte of
the word and then rotate and XOR. -/
def Obligations.Sm4RoundFunctions : Prop :=
  (∀ r c : Fin 16, sbox (BitVec.ofNat 8 (16 * r.val + c.val)) = (sboxRows[r]).extractLsb' (8 * (15 - c.val)) 8) ∧
  (∀ x y : Byte, sbox x = sbox y → x = y) ∧
  (∀ (x : Word) (t : Fin 4), byteOf (sm4Tau x) t = sbox (byteOf x t)) ∧
  (∀ x : Word, sm4T x = sm4Tau x ^^^ (sm4Tau x).rotateLeft 2 ^^^ (sm4Tau x).rotateLeft 10 ^^^
    (sm4Tau x).rotateLeft 18 ^^^ (sm4Tau x).rotateLeft 24) ∧
  (∀ x : Word, sm4T' x = sm4Tau x ^^^ (sm4Tau x).rotateLeft 13 ^^^ (sm4Tau x).rotateLeft 23)
end

