-- ==== Sys2Proof/Laws/Decode.lean ====
section
/-! SUPPORT. The fields of a command word as numbers, of any word and of a packed one (30_encoding.md R90, R97). -/

namespace Sys2Proof

/-! ### Fields as numbers -/

theorem opOf_toNat (w : Word) : (opOf w).toNat = w.toNat % 256 := by
  simp [opOf, BitVec.extractLsb'_toNat]

theorem rdOf_toNat (w : Word) : (rdOf w).toNat = w.toNat / 2 ^ 8 % 16 := by
  simp [rdOf, BitVec.extractLsb'_toNat, Nat.shiftRight_eq_div_pow]

theorem rs1Of_toNat (w : Word) : (rs1Of w).toNat = w.toNat / 2 ^ 12 % 16 := by
  simp [rs1Of, BitVec.extractLsb'_toNat, Nat.shiftRight_eq_div_pow]

theorem rs2Of_toNat (w : Word) : (rs2Of w).toNat = w.toNat / 2 ^ 16 % 16 := by
  simp [rs2Of, BitVec.extractLsb'_toNat, Nat.shiftRight_eq_div_pow]

theorem rs3Of_toNat (w : Word) : (rs3Of w).toNat = w.toNat / 2 ^ 20 % 16 := by
  simp [rs3Of, BitVec.extractLsb'_toNat, Nat.shiftRight_eq_div_pow]

theorem lenOf_toNat (w : Word) : (lenOf w).toNat = w.toNat / 2 ^ 24 % 64 := by
  simp [lenOf, BitVec.extractLsb'_toNat, Nat.shiftRight_eq_div_pow]

theorem rsvOf_toNat (w : Word) : (rsvOf w).toNat = w.toNat / 2 ^ 30 % 4 := by
  simp [rsvOf, BitVec.extractLsb'_toNat, Nat.shiftRight_eq_div_pow]

/-- A word is its seven fields in their places (R90). -/
theorem word_toNat_eq_fields (w : Word) : w.toNat =
    (opOf w).toNat + (rdOf w).toNat * 2 ^ 8 + (rs1Of w).toNat * 2 ^ 12 + (rs2Of w).toNat * 2 ^ 16 +
      (rs3Of w).toNat * 2 ^ 20 + (lenOf w).toNat * 2 ^ 24 + (rsvOf w).toNat * 2 ^ 30 := by
  have h := w.isLt
  rw [opOf_toNat, rdOf_toNat, rs1Of_toNat, rs2Of_toNat, rs3Of_toNat, lenOf_toNat, rsvOf_toNat]
  omega

/-! ### Fields of a packed word -/

/-- The seven fields of `packFields`, each operand within its field (R97). -/
theorem packFields_fields {op rd rs1 rs2 rs3 len : Nat} (h0 : op < 256) (h1 : rd < 16) (h2 : rs1 < 16)
    (h3 : rs2 < 16) (h4 : rs3 < 16) (h5 : len < 64) :
    (opOf (packFields op rd rs1 rs2 rs3 len)).toNat = op ∧ (rdOf (packFields op rd rs1 rs2 rs3 len)).toNat = rd ∧
    (rs1Of (packFields op rd rs1 rs2 rs3 len)).toNat = rs1 ∧ (rs2Of (packFields op rd rs1 rs2 rs3 len)).toNat = rs2 ∧
    (rs3Of (packFields op rd rs1 rs2 rs3 len)).toNat = rs3 ∧ (lenOf (packFields op rd rs1 rs2 rs3 len)).toNat = len ∧
    (rsvOf (packFields op rd rs1 rs2 rs3 len)).toNat = 0 := by
  rw [opOf_toNat, rdOf_toNat, rs1Of_toNat, rs2Of_toNat, rs3Of_toNat, lenOf_toNat, rsvOf_toNat, packFields,
    BitVec.toNat_ofNat]
  omega

/-- The reserved bits of a packed word are 00 (R94). -/
theorem rsvOf_packFields {op rd rs1 rs2 rs3 len : Nat} (h0 : op < 256) (h1 : rd < 16) (h2 : rs1 < 16)
    (h3 : rs2 < 16) (h4 : rs3 < 16) (h5 : len < 64) : rsvOf (packFields op rd rs1 rs2 rs3 len) = 0 :=
  BitVec.eq_of_toNat_eq (packFields_fields h0 h1 h2 h3 h4 h5).2.2.2.2.2.2

/-- A field is zero when its number is. -/
theorem field_eq_zero {n : Nat} {f : BitVec n} (h : f.toNat = 0) : f = 0#n :=
  BitVec.eq_of_toNat_eq (by simpa using h)

theorem vField_of_toNat {f : BitVec 4} {i : VReg} (h : f.toNat = i.val) : vField f = i := Fin.ext h

theorem pField_of_toNat {f : BitVec 4} {k : PReg} (h : f.toNat = k.val) : pField f = .ok k := by
  have hk := k.isLt
  simp [pField, h]

theorem lenField_of_toNat {f : BitVec 6} {n : Len} (h : f.toNat = n.val) : lenField f = n := Fin.ext h

end Sys2Proof
end

