-- ==== Sys2Proof/Laws/ModArith.lean ====
section
/-! SUPPORT. What the exact-arithmetic operations of Machine/ModArith.lean give: the non-negative remainder, the
inverse and the power of 41_bigint_modular.md R130 to R136. -/

namespace Sys2Proof.Machine

/-! ### The non-negative remainder (00_scope.md R9) -/

theorem modNat_cast (x : Int) {m : Nat} (hm : m ≠ 0) : (modNat x m : Int) = x % (m : Int) :=
  Int.toNat_of_nonneg (Int.emod_nonneg x (by exact_mod_cast hm))

theorem modNat_lt (x : Int) {m : Nat} (hm : m ≠ 0) : modNat x m < m := by
  have h1 := modNat_cast x hm
  have h2 := Int.emod_lt_of_pos x (show (0 : Int) < m by omega)
  omega

@[simp] theorem modNat_natCast (n m : Nat) : modNat (n : Int) m = n % m := by
  rw [modNat, ← Int.natCast_emod, Int.toNat_natCast]

/-- A remainder is its own class: it differs from `x` by a multiple of `m`. -/
theorem modNat_modEq (x : Int) {m : Nat} (hm : m ≠ 0) : (modNat x m : Int) ≡ x [ZMOD m] := by
  rw [modNat_cast x hm]; exact Int.mod_modEq x m

/-- A value below a 256-bit modulus is held without loss (R130: r always fits). -/
theorem ofNat_toNat_of_lt_big (m : Big) {r : Nat} (h : r < m.toNat) : (BitVec.ofNat 256 r).toNat = r :=
  BitVec.toNat_ofNat r 256 ▸ Nat.mod_eq_of_lt (h.trans m.isLt)

/-! ### The inverse (R135) -/

theorem inverseEuclid_spec (fuel : Nat) : ∀ a m : Nat, a < fuel → 1 < m → a < m → Nat.gcd a m = 1 →
    inverseEuclid fuel a m < m ∧ a * inverseEuclid fuel a m % m = 1 := by
  induction fuel with
  | zero => intro a m h; omega
  | succ fuel ih =>
    intro a m hf hm ham hg
    by_cases ha : a ≤ 1
    · obtain rfl | rfl : a = 0 ∨ a = 1 := by omega
      · simp at hg; omega
      · simp [inverseEuclid, Nat.mod_eq_of_lt hm, hm]
    · have hlt : m % a < a := Nat.mod_lt _ (by omega)
      obtain ⟨hy, hinv⟩ := ih (m % a) a (by omega) (by omega) hlt
        (by rwa [← Nat.gcd_rec a m])
      set y := inverseEuclid fuel (m % a) a with hydef
      have hx : inverseEuclid (fuel + 1) a m = (1 + m * (a - y)) / a := by
        simp [inverseEuclid, ha, hydef]
      have hy0 : y ≠ 0 := by
        intro h0; simp [h0] at hinv
      have hdvd : a ∣ 1 + m * (a - y) := by
        have hmy : (m * y) % a = 1 := by rw [Nat.mul_mod, Nat.mod_eq_of_lt hy] at *; simpa using hinv
        have hsum : (1 + m * (a - y)) + m * y = 1 + m * a := by
          rw [Nat.mul_sub, Nat.add_assoc, Nat.sub_add_cancel (Nat.mul_le_mul_left m hy.le)]
        have h1 : ((1 + m * (a - y)) + m * y) % a = (0 + m * y) % a := by
          rw [hsum, Nat.add_mul_mod_self_right, Nat.zero_add, hmy, Nat.mod_eq_of_lt (by omega)]
        exact (Nat.modEq_zero_iff_dvd).1 (Nat.ModEq.add_right_cancel' (m * y) h1)
      have hax : a * ((1 + m * (a - y)) / a) = 1 + m * (a - y) := Nat.mul_div_cancel' hdvd
      rw [hx]
      refine ⟨?_, ?_⟩
      · have hle : m * (a - y) ≤ m * (a - 1) := Nat.mul_le_mul_left m (by omega)
        have hlt2 : 1 + m * (a - 1) < m * a := by
          obtain ⟨b, rfl⟩ : ∃ b, a = b + 1 := ⟨a - 1, by omega⟩
          simp only [Nat.add_sub_cancel, Nat.mul_add, Nat.mul_one]; omega
        exact Nat.div_lt_of_lt_mul (by rw [Nat.mul_comm a m]; omega)
      · rw [hax, Nat.add_mul_mod_self_left, Nat.mod_eq_of_lt hm]

/-- `modInverse a m` is an inverse of `a` modulo `m`, in range (R135). -/
theorem modInverse_spec {a m : Nat} (hm : m ≠ 0) (hg : Nat.gcd (a % m) m = 1) :
    modInverse a m < m ∧ a * modInverse a m % m = 1 % m := by
  by_cases h1 : m = 1
  · subst h1; simp [modInverse, inverseEuclid, Nat.mod_one]
  · have hlt : a % m < m := Nat.mod_lt _ (by omega)
    obtain ⟨h2, h3⟩ := inverseEuclid_spec (a % m + 1) (a % m) m (by omega) (by omega) hlt hg
    refine ⟨h2, ?_⟩
    rw [modInverse, Nat.mul_mod, ← Nat.mod_mod_of_dvd a dvd_rfl, ← Nat.mul_mod]
    rw [Nat.mod_eq_of_lt (show 1 < m by omega)]
    simpa using h3

/-- Inverses in [0, m) are unique (R135). -/
theorem inverse_unique {a m x y : Nat} (hx : x < m) (hy : y < m) (hax : a * x % m = 1 % m)
    (hay : a * y % m = 1 % m) : x = y := by
  have h : x ≡ y [MOD m] := by
    calc x = x * 1 := by ring
      _ ≡ x * (a * y) [MOD m] := Nat.ModEq.mul_left x (Nat.ModEq.symm hay)
      _ = (a * x) * y := by ring
      _ ≡ 1 * y [MOD m] := Nat.ModEq.mul_right y hax
      _ = y := by ring
  exact Nat.ModEq.eq_of_lt_of_lt h hx hy

/-- A number with an inverse modulo `m` is prime to `m`: error 3 is raised exactly when no inverse exists (R135). -/
theorem gcd_eq_one_of_inverse {a m x : Nat} (hax : a * x % m = 1 % m) : Nat.gcd (a % m) m = 1 := by
  rw [← Nat.gcd_rec, Nat.gcd_comm]
  exact Nat.Coprime.coprime_mul_right (k := x) (by
    have : Nat.gcd (a * x) m = Nat.gcd 1 m := Nat.ModEq.gcd_eq hax
    simpa [Nat.Coprime] using this)

/-! ### The power (R136) -/

theorem powSquaring_eq (a m : Nat) : ∀ fuel e : Nat, e < 2 ^ fuel → powSquaring a m fuel e = a ^ e % m := by
  intro fuel
  induction fuel with
  | zero => intro e h; obtain rfl : e = 0 := by simpa using h
            simp [powSquaring]
  | succ fuel ih =>
    intro e h
    have hhalf := ih (e / 2) (by rw [Nat.pow_succ] at h; omega)
    have hsq : (a ^ (e / 2) % m) ^ 2 % m = a ^ (2 * (e / 2)) % m := by
      rw [← Nat.pow_mod, ← Nat.pow_mul, Nat.mul_comm]
    by_cases h0 : e = 0
    · simp [powSquaring, h0]
    · by_cases h2 : e % 2 = 0
      · rw [powSquaring, if_neg h0, if_pos h2, hhalf, hsq, show 2 * (e / 2) = e by omega]
      · rw [powSquaring, if_neg h0, if_neg h2, hhalf, hsq, Nat.mod_mul_mod, ← Nat.pow_succ,
          show (2 * (e / 2)).succ = e by omega]

/-- `powMod` is the exact power reduced, for every 256-bit exponent (R136). -/
theorem powMod_eq (a m : Nat) {e : Nat} (h : e < 2 ^ 256) : powMod a e m = a ^ e % m :=
  powSquaring_eq a m 256 e h

/-! ### The results of the commands -/

theorem reduced_zero (x : Int) : reduced x 0 = .error .modZero := by simp [reduced]

theorem reduced_of_ne (x : Int) {m : Nat} (hm : m ≠ 0) : reduced x m = .ok (BitVec.ofNat 256 (modNat x m)) := by
  simp [reduced, hm]

/-- Everything MINV's result can be (R135, R243). -/
theorem inverseResult_cases (a m : Nat) :
    (m = 0 ∧ inverseResult a m = .error .modZero) ∨
    (m ≠ 0 ∧ Nat.gcd (a % m) m ≠ 1 ∧ inverseResult a m = .error .notInvertible) ∨
    (m ≠ 0 ∧ Nat.gcd (a % m) m = 1 ∧ inverseResult a m = .ok (BitVec.ofNat 256 (modInverse a m))) := by
  unfold inverseResult
  by_cases hm : m = 0
  · exact .inl ⟨hm, if_pos hm⟩
  · by_cases hg : Nat.gcd (a % m) m = 1
    · exact .inr (.inr ⟨hm, hg, by rw [if_neg hm, if_neg (not_not.2 hg)]⟩)
    · exact .inr (.inl ⟨hm, hg, by rw [if_neg hm, if_pos hg]⟩)

end Sys2Proof.Machine
end

