-- ==== Sys2Proof/Laws/Primality.lean ====
section
/-! SUPPORT. `isPrime` is primality (42_ec_point.md R151): the trial division is exact, and SM2's p, which `isPrime`
answers at once, is prime by a chain of Lucas certificates. -/

namespace Sys2Proof.Laws

set_option Elab.async false

open Sys2Proof.Machine

/-! ### Trial division -/

theorem noDivisorFrom_iff (n : Nat) : ∀ fuel d : Nat,
    noDivisorFrom n fuel d = true ↔ ∀ k, d ≤ k → k < d + fuel → k * k ≤ n → ¬ k ∣ n := by
  intro fuel
  induction fuel with
  | zero => intro d; simp only [noDivisorFrom, true_iff]; intro k h1 h2; omega
  | succ fuel ih =>
    intro d
    by_cases hd : n < d * d
    · simp only [noDivisorFrom, if_pos hd, true_iff]
      intro k h1 _ h3
      have : d * d ≤ k * k := Nat.mul_le_mul h1 h1
      omega
    · by_cases hn : n % d = 0
      · simp only [noDivisorFrom, if_neg hd, if_pos hn, Bool.false_eq_true, false_iff, not_forall]
        exact ⟨d, le_rfl, by omega, by omega, not_not.2 (Nat.dvd_of_mod_eq_zero hn)⟩
      · simp only [noDivisorFrom, if_neg hd, if_neg hn, ih]
        constructor
        · intro h k h1 h2 h3
          rcases Nat.eq_or_lt_of_le h1 with rfl | h4
          · exact fun h5 => hn (Nat.mod_eq_zero_of_dvd h5)
          · exact h k h4 (by omega) h3
        · intro h k h1 h2 h3
          exact h k (by omega) (by omega) h3

theorem trialDivision_iff (n : Nat) : (decide (2 ≤ n) && noDivisorFrom n n 2) = true ↔ n.Prime := by
  rw [Bool.and_eq_true, decide_eq_true_iff, noDivisorFrom_iff, Nat.prime_def_le_sqrt]
  refine and_congr_right fun _ => ⟨fun h k h1 h2 => ?_, fun h k h1 _ h3 => ?_⟩
  · have h3 : k * k ≤ n := Nat.le_sqrt.1 h2
    have h4 : k ≤ k * k := Nat.le_mul_self k
    exact h k h1 (by omega) h3
  · exact h k h1 (Nat.le_sqrt.2 h3)

/-! ### Lucas certificates -/

theorem zmod_pow_eq_powMod (p a k : Nat) (hk : k < 2 ^ 256) :
    ((a : ZMod p)) ^ k = ((powMod a k p : Nat) : ZMod p) := by
  rw [powMod_eq a p hk, ZMod.natCast_mod, Nat.cast_pow]

/-- Lucas' test on a number below 2^256: `qs` are the prime factors of p − 1, `a` generates the units modulo p. -/
theorem prime_of_certificate (p a : Nat) (qs : List Nat) (hlo : 2 ≤ p) (hhi : p < 2 ^ 256)
    (hqs : ∀ q ∈ qs, q.Prime) (hprod : qs.prod = p - 1) (hone : powMod a (p - 1) p = 1)
    (hne : ∀ q ∈ qs, powMod a ((p - 1) / q) p ≠ 1) : p.Prime := by
  refine lucas_primality p (a : ZMod p) ?_ fun q hq hdvd => ?_
  · rw [zmod_pow_eq_powMod p a _ (by omega), hone, Nat.cast_one]
  · have hmem : q ∈ qs := by
      rw [← hprod] at hdvd
      obtain ⟨r, hr, hqr⟩ := (Prime.dvd_prod_iff hq.prime).1 hdvd
      rwa [(Nat.prime_dvd_prime_iff_eq hq (hqs r hr)).1 hqr]
    have hk : (p - 1) / q < 2 ^ 256 := (Nat.div_le_self _ _).trans_lt (by omega)
    rw [zmod_pow_eq_powMod p a _ hk]
    intro h
    apply hne q hmem
    have hlt : powMod a ((p - 1) / q) p < p := by
      rw [powMod_eq a p hk]; exact Nat.mod_lt _ (by omega)
    have h' : ((powMod a ((p - 1) / q) p : Nat) : ZMod p) = ((1 : Nat) : ZMod p) := by rw [h, Nat.cast_one]
    rw [ZMod.natCast_eq_natCast_iff] at h'
    exact Nat.ModEq.eq_of_lt_of_lt h' hlt (by omega)

theorem prime_3079049 : Nat.Prime 3079049 :=
  prime_of_certificate _ 3 [2, 2, 2, 7, 54983] (by decide +kernel) (by decide +kernel)
    (by simp only [List.forall_mem_cons]; exact ⟨(by norm_num), (by norm_num), (by norm_num), (by norm_num), (by norm_num), by simp⟩)
    (by decide +kernel) (by decide +kernel) (by decide +kernel)

theorem prime_6158099 : Nat.Prime 6158099 :=
  prime_of_certificate _ 2 [2, 3079049] (by decide +kernel) (by decide +kernel)
    (by simp only [List.forall_mem_cons]; exact ⟨(by norm_num), prime_3079049, by simp⟩)
    (by decide +kernel) (by decide +kernel) (by decide +kernel)

theorem prime_363761 : Nat.Prime 363761 :=
  prime_of_certificate _ 3 [2, 2, 2, 2, 5, 4547] (by decide +kernel) (by decide +kernel)
    (by simp only [List.forall_mem_cons]; exact ⟨(by norm_num), (by norm_num), (by norm_num), (by norm_num), (by norm_num), (by norm_num), by simp⟩)
    (by decide +kernel) (by decide +kernel) (by decide +kernel)

theorem prime_4773264379806847 : Nat.Prime 4773264379806847 :=
  prime_of_certificate _ 3 [2, 3, 7, 11, 823, 34511, 363761] (by decide +kernel) (by decide +kernel)
    (by simp only [List.forall_mem_cons]; exact ⟨(by norm_num), (by norm_num), (by norm_num), (by norm_num), (by norm_num), (by norm_num), prime_363761, by simp⟩)
    (by decide +kernel) (by decide +kernel) (by decide +kernel)

theorem prime_66013261729388519804782124120027 : Nat.Prime 66013261729388519804782124120027 :=
  prime_of_certificate _ 2 [2, 13, 1213, 71209, 6158099, 4773264379806847] (by decide +kernel) (by decide +kernel)
    (by simp only [List.forall_mem_cons]; exact ⟨(by norm_num), (by norm_num), (by norm_num), (by norm_num), prime_6158099, prime_4773264379806847, by simp⟩)
    (by decide +kernel) (by decide +kernel) (by decide +kernel)

theorem prime_3017783777 : Nat.Prime 3017783777 :=
  prime_of_certificate _ 3 [2, 2, 2, 2, 2, 7, 7, 337, 5711] (by decide +kernel) (by decide +kernel)
    (by simp only [List.forall_mem_cons]; exact ⟨(by norm_num), (by norm_num), (by norm_num), (by norm_num), (by norm_num), (by norm_num), (by norm_num), (by norm_num), (by norm_num), by simp⟩)
    (by decide +kernel) (by decide +kernel) (by decide +kernel)

theorem prime_4641351449027 : Nat.Prime 4641351449027 :=
  prime_of_certificate _ 2 [2, 769, 3017783777] (by decide +kernel) (by decide +kernel)
    (by simp only [List.forall_mem_cons]; exact ⟨(by norm_num), (by norm_num), prime_3017783777, by simp⟩)
    (by decide +kernel) (by decide +kernel) (by decide +kernel)

theorem prime_8214737 : Nat.Prime 8214737 :=
  prime_of_certificate _ 3 [2, 2, 2, 2, 67, 79, 97] (by decide +kernel) (by decide +kernel)
    (by simp only [List.forall_mem_cons]; exact ⟨(by norm_num), (by norm_num), (by norm_num), (by norm_num), (by norm_num), (by norm_num), (by norm_num), by simp⟩)
    (by decide +kernel) (by decide +kernel) (by decide +kernel)

theorem prime_417514796639753 : Nat.Prime 417514796639753 :=
  prime_of_certificate _ 3 [2, 2, 2, 7, 367, 2473, 8214737] (by decide +kernel) (by decide +kernel)
    (by simp only [List.forall_mem_cons]; exact ⟨(by norm_num), (by norm_num), (by norm_num), (by norm_num), (by norm_num), (by norm_num), prime_8214737, by simp⟩)
    (by decide +kernel) (by decide +kernel) (by decide +kernel)

theorem prime_179429 : Nat.Prime 179429 :=
  prime_of_certificate _ 2 [2, 2, 31, 1447] (by decide +kernel) (by decide +kernel)
    (by simp only [List.forall_mem_cons]; exact ⟨(by norm_num), (by norm_num), (by norm_num), (by norm_num), by simp⟩)
    (by decide +kernel) (by decide +kernel) (by decide +kernel)

theorem prime_348253387243 : Nat.Prime 348253387243 :=
  prime_of_certificate _ 3 [2, 3, 61, 5303, 179429] (by decide +kernel) (by decide +kernel)
    (by simp only [List.forall_mem_cons]; exact ⟨(by norm_num), (by norm_num), (by norm_num), (by norm_num), prime_179429, by simp⟩)
    (by decide +kernel) (by decide +kernel) (by decide +kernel)

theorem prime_sm2P : Nat.Prime (sm2P.toNat) :=
  prime_of_certificate _ 13 [2, 43, 30223, 348253387243, 4641351449027, 417514796639753, 66013261729388519804782124120027] (by decide +kernel) (by decide +kernel)
    (by simp only [List.forall_mem_cons]; exact ⟨(by norm_num), (by norm_num), (by norm_num), prime_348253387243, prime_4641351449027, prime_417514796639753, prime_66013261729388519804782124120027, by simp⟩)
    (by decide +kernel) (by decide +kernel) (by decide +kernel)

/-- `isPrime` answers primality, for every number (R151). -/
theorem isPrime_iff (n : Nat) : isPrime n = true ↔ n.Prime := by
  unfold isPrime
  rw [Bool.or_eq_true, trialDivision_iff, beq_iff_eq]
  exact ⟨fun h => h.elim (fun h => h ▸ prime_sm2P) id, .inr⟩

/-- VD, read as the conditions of R151. -/
theorem validDomainOf_iff (p a b : Nat) : validDomainOf p a b = true ↔
    p.Prime ∧ 3 < p ∧ a < p ∧ b < p ∧ (4 * a ^ 3 + 27 * b ^ 2) % p ≠ 0 := by
  simp only [validDomainOf, Bool.and_eq_true, decide_eq_true_iff, isPrime_iff]
  tauto

end Sys2Proof.Laws
end

