-- ==== Sys2Proof/Laws/EcGroup.lean ====
section
/-! SUPPORT. The affine law of 42_ec_point.md R153 is the group law of Mathlib's nonsingular points: on a valid domain
(R151) every valid point (R152) stands for a point of the Weierstrass curve over ZMod p, and `ecAdd` for its addition. -/

namespace Sys2Proof.Laws

open Sys2Proof.Machine WeierstrassCurve.Affine

/-- The curve y² = x³ + a·x + b over ZMod p (R150). -/
abbrev curveOf (p a b : Nat) : WeierstrassCurve.Affine (ZMod p) := ⟨0, 0, 0, a, b⟩

/-- The model's point stands for a nonsingular point of the curve: O for 0, else reduced coordinates. -/
def Represents (p a b : Nat) : Point → (curveOf p a b).Point → Prop
  | .inf, q => q = .zero
  | .affine x y, q => x.toNat < p ∧ y.toNat < p ∧
      ∃ h : (curveOf p a b).Nonsingular (x.toNat : ZMod p) (y.toNat : ZMod p), q = .some _ _ h

variable {p a b : Nat}

theorem domain_prime (hd : validDomainOf p a b = true) : p.Prime := ((validDomainOf_iff p a b).1 hd).1

theorem domain_gt_three (hd : validDomainOf p a b = true) : 3 < p := ((validDomainOf_iff p a b).1 hd).2.1

/-- On a valid domain the discriminant is not 0. -/
theorem curveOf_disc_ne_zero (hd : validDomainOf p a b = true) : (curveOf p a b).Δ ≠ 0 := by
  obtain ⟨hp, h3, -, -, hn⟩ := (validDomainOf_iff p a b).1 hd
  have : Fact p.Prime := ⟨hp⟩
  have h2 : ((16 : ℕ) : ZMod p) ≠ 0 := by
    rw [Ne, ZMod.natCast_eq_zero_iff]
    intro h
    have h2 : p ∣ 2 := hp.dvd_of_dvd_pow (show p ∣ 2 ^ 4 from h)
    have := Nat.le_of_dvd (by norm_num) h2
    omega
  have hz : ((4 * a ^ 3 + 27 * b ^ 2 : ℕ) : ZMod p) ≠ 0 := by
    rw [Ne, ZMod.natCast_eq_zero_iff]
    exact fun h => hn (Nat.mod_eq_zero_of_dvd h)
  have hΔ : (curveOf p a b).Δ = -((16 : ℕ) : ZMod p) * ((4 * a ^ 3 + 27 * b ^ 2 : ℕ) : ZMod p) := by
    simp only [WeierstrassCurve.Δ, WeierstrassCurve.b₂, WeierstrassCurve.b₄, WeierstrassCurve.b₆,
      WeierstrassCurve.b₈]
    push_cast
    ring
  rw [hΔ]
  exact mul_ne_zero (neg_ne_zero.2 h2) hz

/-- The curve equation as the model tests it (R152). -/
theorem equation_iff_defect (hp : p.Prime) (x y : Nat) :
    (curveOf p a b).Equation (x : ZMod p) (y : ZMod p) ↔ modNat (curveDefect a b x y) p = 0 := by
  have h1 : modNat (curveDefect a b x y) p = 0 ↔ (p : Int) ∣ curveDefect a b x y := by
    rw [← Int.natCast_eq_zero, modNat_cast _ hp.ne_zero, Int.dvd_iff_emod_eq_zero]
  rw [h1, ← ZMod.intCast_zmod_eq_zero_iff_dvd _ p, WeierstrassCurve.Affine.equation_iff]
  simp only [curveDefect]
  push_cast
  rw [sub_eq_zero]
  ring_nf

theorem represents_of_valid (hd : validDomainOf p a b = true) {q : Point} (hq : validPointOf p a b q = true) :
    ∃ r, Represents p a b q r := by
  cases q with
  | inf => exact ⟨_, rfl⟩
  | affine x y =>
    simp only [validPointOf, Bool.and_eq_true, decide_eq_true_eq] at hq
    have heq := (equation_iff_defect (a := a) (b := b) (domain_prime hd) x.toNat y.toNat).2 hq.2
    exact ⟨_, hq.1.1, hq.1.2,
      (WeierstrassCurve.Affine.equation_iff_nonsingular_of_Δ_ne_zero (curveOf_disc_ne_zero hd)).1 heq, rfl⟩

theorem valid_of_represents (hp : p.Prime) {q : Point} {r : (curveOf p a b).Point} (h : Represents p a b q r) :
    validPointOf p a b q = true := by
  cases q with
  | inf => rfl
  | affine x y =>
    obtain ⟨hx, hy, hn, -⟩ := h
    simp only [validPointOf, Bool.and_eq_true, decide_eq_true_eq]
    exact ⟨⟨hx, hy⟩, (equation_iff_defect hp _ _).1 hn.1⟩

/-- A reduced number is known by its class. -/
theorem eq_of_cast_eq {x y : Nat} (hx : x < p) (hy : y < p) (h : (x : ZMod p) = y) : x = y :=
  Nat.ModEq.eq_of_lt_of_lt ((ZMod.natCast_eq_natCast_iff _ _ _).1 h) hx hy

theorem represents_unique {q q' : Point} {r : (curveOf p a b).Point} (h : Represents p a b q r)
    (h' : Represents p a b q' r) : q = q' := by
  cases q <;> cases q'
  · rfl
  · obtain ⟨-, -, hn, he⟩ := h'
    exact absurd (he.symm.trans h) (by simp)
  · obtain ⟨-, -, hn, he⟩ := h
    exact absurd (he.symm.trans h') (by simp)
  · obtain ⟨hx, hy, hn, he⟩ := h
    obtain ⟨hx', hy', hn', he'⟩ := h'
    rw [he, WeierstrassCurve.Affine.Point.some.injEq] at he'
    congr 1 <;> apply BitVec.eq_of_toNat_eq
    · exact eq_of_cast_eq hx hx' he'.1
    · exact eq_of_cast_eq hy hy' he'.2

/-! ### Addition -/

/-- The remainder of an integer is its class. -/
theorem modNat_class (z : Int) (hp : p.Prime) : ((modNat z p : ℕ) : ZMod p) = (z : ZMod p) := by
  have h := (ZMod.intCast_eq_intCast_iff _ _ _).2 (modNat_modEq z hp.ne_zero)
  simpa using h

/-- `inv` is the inverse of the field (R135, R153). -/
theorem inverse_class (hp : p.Prime) (z : Int) (hz : (z : ZMod p) ≠ 0) :
    ((modInverse (modNat z p) p : ℕ) : ZMod p) = (z : ZMod p)⁻¹ := by
  have : Fact p.Prime := ⟨hp⟩
  have hlt := modNat_lt z hp.ne_zero
  have hg : Nat.gcd (modNat z p % p) p = 1 := by
    rw [Nat.mod_eq_of_lt hlt, Nat.gcd_comm]
    refine (Nat.Prime.coprime_iff_not_dvd hp).2 fun hdvd => hz ?_
    rw [← modNat_class z hp]
    exact (ZMod.natCast_eq_zero_iff _ _).2 hdvd
  have h := (ZMod.natCast_eq_natCast_iff _ _ _).2 (modInverse_spec hp.ne_zero hg).2
  rw [Nat.cast_mul, modNat_class z hp, Nat.cast_one] at h
  exact eq_inv_of_mul_eq_one_right h

/-- `thirdPoint` is Mathlib's third point for the same slope. -/
theorem represents_thirdPoint (hp : p.Prime) (h256 : p < 2 ^ 256) (l x1 y1 x2 : Nat)
    (hn : (curveOf p a b).Nonsingular ((curveOf p a b).addX x1 x2 l) ((curveOf p a b).addY x1 x2 y1 l)) :
    Represents p a b (thirdPoint p l x1 y1 x2) (.some _ _ hn) := by
  have hx3 := modNat_lt ((l : Int) ^ 2 - x1 - x2) hp.ne_zero
  have hy3 := modNat_lt ((l : Int) * ((x1 : Int) - modNat ((l : Int) ^ 2 - x1 - x2) p) - y1) hp.ne_zero
  have hcx : ((modNat ((l : Int) ^ 2 - x1 - x2) p : ℕ) : ZMod p) = (curveOf p a b).addX x1 x2 l := by
    rw [modNat_class _ hp]
    simp only [WeierstrassCurve.Affine.addX]
    push_cast
    ring
  have hcy : ((modNat ((l : Int) * ((x1 : Int) - modNat ((l : Int) ^ 2 - x1 - x2) p) - y1) p : ℕ) : ZMod p) =
      (curveOf p a b).addY x1 x2 y1 l := by
    rw [modNat_class _ hp]
    simp only [WeierstrassCurve.Affine.addY, WeierstrassCurve.Affine.negY, WeierstrassCurve.Affine.negAddY, ← hcx,
      curveOf]
    push_cast
    ring
  have hfit : ∀ {n : Nat}, n < p → (BitVec.ofNat 256 n).toNat = n := fun h => by
    rw [BitVec.toNat_ofNat, Nat.mod_eq_of_lt (h.trans h256)]
  simp only [thirdPoint, affineNat, Represents, hfit hx3, hfit hy3]
  refine ⟨hx3, hy3, by rw [hcx, hcy]; exact hn, ?_⟩
  simp only [hcx, hcy]

/-- ecAdd of a point with itself is ecDbl (R153, R163). -/
theorem ecAdd_self (p a : Nat) (q : Point) : ecAdd p a q q = ecDbl p a q := by
  cases q with
  | inf => rfl
  | affine x y => by_cases h : y.toNat = 0 <;> simp [ecAdd, ecDbl, h]

/-! ### The SM2 curve (R160) -/

/-- The SM2 parameters are a valid domain. -/
theorem sm2_domain : validDomainOf sm2P.toNat sm2A.toNat sm2B.toNat = true := by decide +kernel

/-- G is a point of the SM2 curve. -/
theorem sm2_valid : validPointOf sm2P.toNat sm2A.toNat sm2B.toNat (.affine sm2Gx sm2Gy) = true := by decide +kernel

/-- n times G is O, by the double-and-add of R162. -/
theorem sm2_order : ecMulRef sm2P.toNat sm2A.toNat sm2N.toNat (.affine sm2Gx sm2Gy) = .inf := by decide +kernel

/-! ### Addition stands for the group's addition -/

variable [Fact p.Prime]

/-- `ecAdd` stands for the group's addition (R153). -/
theorem represents_add (h3 : 3 < p) (h256 : p < 2 ^ 256) {q q' : Point} {r r' : (curveOf p a b).Point}
    (h : Represents p a b q r) (h' : Represents p a b q' r') : Represents p a b (ecAdd p a q q') (r + r') := by
  have hp : p.Prime := Fact.out
  cases q with
  | inf =>
    obtain rfl : r = 0 := h
    rw [zero_add]
    cases q' <;> exact h'
  | affine x1 y1 =>
    cases q' with
    | inf =>
      obtain rfl : r' = 0 := h'
      rw [add_zero]
      exact h
    | affine x2 y2 =>
      obtain ⟨hx1, hy1, hn1, rfl⟩ := h
      obtain ⟨hx2, hy2, hn2, rfl⟩ := h'
      by_cases hx : x1 = x2
      · subst hx
        by_cases hy : y1 = y2 ∧ y1.toNat ≠ 0
        · obtain ⟨rfl, hy0⟩ := hy
          have h2y : ((2 * (y1.toNat : Int) : Int) : ZMod p) ≠ 0 := by
            rw [Ne, ZMod.intCast_zmod_eq_zero_iff_dvd]
            intro hdvd
            have hdvd' : p ∣ 2 * y1.toNat := by exact_mod_cast hdvd
            rcases (Nat.Prime.dvd_mul hp).1 hdvd' with h | h
            · have := Nat.le_of_dvd (by norm_num) h; omega
            · have := Nat.le_of_dvd (by omega) h; omega
          have hne : (y1.toNat : ZMod p) ≠ (curveOf p a b).negY x1.toNat y1.toNat := by
            intro he
            apply h2y
            simp only [WeierstrassCurve.Affine.negY] at he
            push_cast
            linear_combination he
          have hslope : ((tangentSlope p a x1.toNat y1.toNat : ℕ) : ZMod p) =
              (curveOf p a b).slope x1.toNat x1.toNat y1.toNat y1.toNat := by
            rw [WeierstrassCurve.Affine.slope_of_Y_ne rfl hne, tangentSlope, modNat_class _ hp]
            simp only [WeierstrassCurve.Affine.negY]
            push_cast
            rw [inverse_class hp _ h2y, div_eq_mul_inv]
            push_cast
            ring_nf
          rw [WeierstrassCurve.Affine.Point.add_self_of_Y_ne hne]
          simp only [ecAdd, if_true, true_and, hy0, ne_eq, not_false_eq_true, ecDbl, if_false]
          have hr := represents_thirdPoint (a := a) (b := b) hp h256 (tangentSlope p a x1.toNat y1.toNat) x1.toNat
            y1.toNat x1.toNat (by
              rw [hslope]
              exact WeierstrassCurve.Affine.nonsingular_add hn1 hn1 fun hxy => hne hxy.right)
          simpa only [hslope] using hr
        · have heq : (y1.toNat : ZMod p) = (curveOf p a b).negY x1.toNat y2.toNat := by
            have hsum : (y1.toNat : ZMod p) = y2.toNat ∨ (y1.toNat : ZMod p) = (curveOf p a b).negY x1.toNat y2.toNat :=
              WeierstrassCurve.Affine.Y_eq_of_X_eq hn1.1 hn2.1 rfl
            rcases hsum with h | h
            · have hyy : y1 = y2 := BitVec.eq_of_toNat_eq (eq_of_cast_eq hy1 hy2 h)
              have hy0 : y1.toNat = 0 := by by_contra hc; exact hy ⟨hyy, hc⟩
              simp [← hyy, hy0, WeierstrassCurve.Affine.negY]
            · exact h
          rw [WeierstrassCurve.Affine.Point.add_of_Y_eq rfl heq]
          simp only [ecAdd, if_true, hy, if_false]
          rfl
      · have hxc : (x1.toNat : ZMod p) ≠ x2.toNat := fun h => hx (BitVec.eq_of_toNat_eq (eq_of_cast_eq hx1 hx2 h))
        have hdx : (((x2.toNat : Int) - x1.toNat : Int) : ZMod p) ≠ 0 := by
          push_cast
          exact sub_ne_zero.2 (Ne.symm hxc)
        have hslope : ((chordSlope p x1.toNat y1.toNat x2.toNat y2.toNat : ℕ) : ZMod p) =
            (curveOf p a b).slope x1.toNat x2.toNat y1.toNat y2.toNat := by
          rw [WeierstrassCurve.Affine.slope_of_X_ne hxc, chordSlope, modNat_class _ hp]
          push_cast
          rw [inverse_class hp _ hdx, div_eq_mul_inv, ← neg_sub (x2.toNat : ZMod p), ← neg_sub (y2.toNat : ZMod p),
            inv_neg, neg_mul_neg]
          push_cast
          rfl
        rw [WeierstrassCurve.Affine.Point.add_of_X_ne hxc]
        simp only [ecAdd, hx, if_false]
        have hr := represents_thirdPoint (a := a) (b := b) hp h256
          (chordSlope p x1.toNat y1.toNat x2.toNat y2.toNat) x1.toNat y1.toNat x2.toNat (by
            rw [hslope]
            exact WeierstrassCurve.Affine.nonsingular_add hn1 hn2 fun hxy => hxc hxy.left)
        simpa only [hslope] using hr

end Sys2Proof.Laws
end

