-- ==== Sys2Proof/Laws/State.lean ====
section
/-! SUPPORT. One lemma per field for each named update of State: what the update leaves there, true by rfl and used by
simp, so that no later proof unfolds a record update. -/

namespace Sys2Proof.Machine

/-! ### `V[i] <- x` (R20) -/

@[simp] theorem State.setV_v (s : State) (i : VReg) (x : Big) : (s.setV i x).v = s.v.set i x := rfl
@[simp] theorem State.setV_pinf (s : State) (i : VReg) (x : Big) : (s.setV i x).pinf = s.pinf := rfl
@[simp] theorem State.setV_cp (s : State) (i : VReg) (x : Big) : (s.setV i x).cp = s.cp := rfl
@[simp] theorem State.setV_ca (s : State) (i : VReg) (x : Big) : (s.setV i x).ca = s.ca := rfl
@[simp] theorem State.setV_cb (s : State) (i : VReg) (x : Big) : (s.setV i x).cb = s.cb := rfl
@[simp] theorem State.setV_cn (s : State) (i : VReg) (x : Big) : (s.setV i x).cn = s.cn := rfl
@[simp] theorem State.setV_sm3V (s : State) (i : VReg) (x : Big) : (s.setV i x).sm3V = s.sm3V := rfl
@[simp] theorem State.setV_sm3Buf (s : State) (i : VReg) (x : Big) : (s.setV i x).sm3Buf = s.sm3Buf := rfl
@[simp] theorem State.setV_sm3Active (s : State) (i : VReg) (x : Big) : (s.setV i x).sm3Active = s.sm3Active := rfl
@[simp] theorem State.setV_sm3Cnt (s : State) (i : VReg) (x : Big) : (s.setV i x).sm3Cnt = s.sm3Cnt := rfl
@[simp] theorem State.setV_sm4Key (s : State) (i : VReg) (x : Big) : (s.setV i x).sm4Key = s.sm4Key := rfl
@[simp] theorem State.setV_sm4Din (s : State) (i : VReg) (x : Big) : (s.setV i x).sm4Din = s.sm4Din := rfl
@[simp] theorem State.setV_sm4Dout (s : State) (i : VReg) (x : Big) : (s.setV i x).sm4Dout = s.sm4Dout := rfl
@[simp] theorem State.setV_sm4Rk (s : State) (i : VReg) (x : Big) : (s.setV i x).sm4Rk = s.sm4Rk := rfl
@[simp] theorem State.setV_keyValid (s : State) (i : VReg) (x : Big) : (s.setV i x).keyValid = s.keyValid := rfl
@[simp] theorem State.setV_busy (s : State) (i : VReg) (x : Big) : (s.setV i x).busy = s.busy := rfl
@[simp] theorem State.setV_done (s : State) (i : VReg) (x : Big) : (s.setV i x).done = s.done := rfl
@[simp] theorem State.setV_aerr (s : State) (i : VReg) (x : Big) : (s.setV i x).aerr = s.aerr := rfl
@[simp] theorem State.setV_err (s : State) (i : VReg) (x : Big) : (s.setV i x).err = s.err := rfl
@[simp] theorem State.setV_chk (s : State) (i : VReg) (x : Big) : (s.setV i x).chk = s.chk := rfl
@[simp] theorem State.setV_ie (s : State) (i : VReg) (x : Big) : (s.setV i x).ie = s.ie := rfl
@[simp] theorem State.setV_cmdl (s : State) (i : VReg) (x : Big) : (s.setV i x).cmdl = s.cmdl := rfl
@[simp] theorem State.setV_pend (s : State) (i : VReg) (x : Big) : (s.setV i x).pend = s.pend := rfl
@[simp] theorem State.setV_rstN (s : State) (i : VReg) (x : Big) : (s.setV i x).rstN = s.rstN := rfl
@[simp] theorem State.setV_inputs (s : State) (i : VReg) (x : Big) : (s.setV i x).inputs = s.inputs := rfl
@[simp] theorem State.setV_reply (s : State) (i : VReg) (x : Big) : (s.setV i x).reply = s.reply := rfl
@[simp] theorem State.setV_draws (s : State) (i : VReg) (x : Big) : (s.setV i x).draws = s.draws := rfl

/-! ### `WritePoint` (R154) -/

@[simp] theorem writePoint_v (s : State) (k : PReg) (r : Point) :
    (writePoint s k r).v = (s.v.set (xReg k) (pointX r)).set (yReg k) (pointY r) := rfl
@[simp] theorem writePoint_pinf (s : State) (k : PReg) (r : Point) :
    (writePoint s k r).pinf = setInfBit s.pinf k (pointInf r) := rfl
@[simp] theorem writePoint_cp (s : State) (k : PReg) (r : Point) : (writePoint s k r).cp = s.cp := rfl
@[simp] theorem writePoint_ca (s : State) (k : PReg) (r : Point) : (writePoint s k r).ca = s.ca := rfl
@[simp] theorem writePoint_cb (s : State) (k : PReg) (r : Point) : (writePoint s k r).cb = s.cb := rfl
@[simp] theorem writePoint_cn (s : State) (k : PReg) (r : Point) : (writePoint s k r).cn = s.cn := rfl
@[simp] theorem writePoint_sm3V (s : State) (k : PReg) (r : Point) : (writePoint s k r).sm3V = s.sm3V := rfl
@[simp] theorem writePoint_sm3Buf (s : State) (k : PReg) (r : Point) : (writePoint s k r).sm3Buf = s.sm3Buf := rfl
@[simp] theorem writePoint_sm3Active (s : State) (k : PReg) (r : Point) :
    (writePoint s k r).sm3Active = s.sm3Active := rfl
@[simp] theorem writePoint_sm3Cnt (s : State) (k : PReg) (r : Point) : (writePoint s k r).sm3Cnt = s.sm3Cnt := rfl
@[simp] theorem writePoint_sm4Key (s : State) (k : PReg) (r : Point) : (writePoint s k r).sm4Key = s.sm4Key := rfl
@[simp] theorem writePoint_sm4Din (s : State) (k : PReg) (r : Point) : (writePoint s k r).sm4Din = s.sm4Din := rfl
@[simp] theorem writePoint_sm4Dout (s : State) (k : PReg) (r : Point) : (writePoint s k r).sm4Dout = s.sm4Dout := rfl
@[simp] theorem writePoint_sm4Rk (s : State) (k : PReg) (r : Point) : (writePoint s k r).sm4Rk = s.sm4Rk := rfl
@[simp] theorem writePoint_keyValid (s : State) (k : PReg) (r : Point) :
    (writePoint s k r).keyValid = s.keyValid := rfl
@[simp] theorem writePoint_busy (s : State) (k : PReg) (r : Point) : (writePoint s k r).busy = s.busy := rfl
@[simp] theorem writePoint_done (s : State) (k : PReg) (r : Point) : (writePoint s k r).done = s.done := rfl
@[simp] theorem writePoint_aerr (s : State) (k : PReg) (r : Point) : (writePoint s k r).aerr = s.aerr := rfl
@[simp] theorem writePoint_err (s : State) (k : PReg) (r : Point) : (writePoint s k r).err = s.err := rfl
@[simp] theorem writePoint_chk (s : State) (k : PReg) (r : Point) : (writePoint s k r).chk = s.chk := rfl
@[simp] theorem writePoint_ie (s : State) (k : PReg) (r : Point) : (writePoint s k r).ie = s.ie := rfl
@[simp] theorem writePoint_cmdl (s : State) (k : PReg) (r : Point) : (writePoint s k r).cmdl = s.cmdl := rfl
@[simp] theorem writePoint_pend (s : State) (k : PReg) (r : Point) : (writePoint s k r).pend = s.pend := rfl
@[simp] theorem writePoint_rstN (s : State) (k : PReg) (r : Point) : (writePoint s k r).rstN = s.rstN := rfl
@[simp] theorem writePoint_inputs (s : State) (k : PReg) (r : Point) : (writePoint s k r).inputs = s.inputs := rfl
@[simp] theorem writePoint_reply (s : State) (k : PReg) (r : Point) : (writePoint s k r).reply = s.reply := rfl
@[simp] theorem writePoint_draws (s : State) (k : PReg) (r : Point) : (writePoint s k r).draws = s.draws := rfl

/-! ### the end of a commit (R111) -/

@[simp] theorem finish_v (s : State) (c : BitVec 4) : (finish s c).v = s.v := rfl
@[simp] theorem finish_pinf (s : State) (c : BitVec 4) : (finish s c).pinf = s.pinf := rfl
@[simp] theorem finish_cp (s : State) (c : BitVec 4) : (finish s c).cp = s.cp := rfl
@[simp] theorem finish_ca (s : State) (c : BitVec 4) : (finish s c).ca = s.ca := rfl
@[simp] theorem finish_cb (s : State) (c : BitVec 4) : (finish s c).cb = s.cb := rfl
@[simp] theorem finish_cn (s : State) (c : BitVec 4) : (finish s c).cn = s.cn := rfl
@[simp] theorem finish_sm3V (s : State) (c : BitVec 4) : (finish s c).sm3V = s.sm3V := rfl
@[simp] theorem finish_sm3Buf (s : State) (c : BitVec 4) : (finish s c).sm3Buf = s.sm3Buf := rfl
@[simp] theorem finish_sm3Active (s : State) (c : BitVec 4) : (finish s c).sm3Active = s.sm3Active := rfl
@[simp] theorem finish_sm3Cnt (s : State) (c : BitVec 4) : (finish s c).sm3Cnt = s.sm3Cnt := rfl
@[simp] theorem finish_sm4Key (s : State) (c : BitVec 4) : (finish s c).sm4Key = s.sm4Key := rfl
@[simp] theorem finish_sm4Din (s : State) (c : BitVec 4) : (finish s c).sm4Din = s.sm4Din := rfl
@[simp] theorem finish_sm4Dout (s : State) (c : BitVec 4) : (finish s c).sm4Dout = s.sm4Dout := rfl
@[simp] theorem finish_sm4Rk (s : State) (c : BitVec 4) : (finish s c).sm4Rk = s.sm4Rk := rfl
@[simp] theorem finish_keyValid (s : State) (c : BitVec 4) : (finish s c).keyValid = s.keyValid := rfl
@[simp] theorem finish_busy (s : State) (c : BitVec 4) : (finish s c).busy = false := rfl
@[simp] theorem finish_done (s : State) (c : BitVec 4) : (finish s c).done = true := rfl
@[simp] theorem finish_aerr (s : State) (c : BitVec 4) : (finish s c).aerr = s.aerr := rfl
@[simp] theorem finish_err (s : State) (c : BitVec 4) : (finish s c).err = c := rfl
@[simp] theorem finish_chk (s : State) (c : BitVec 4) : (finish s c).chk = s.chk := rfl
@[simp] theorem finish_ie (s : State) (c : BitVec 4) : (finish s c).ie = s.ie := rfl
@[simp] theorem finish_cmdl (s : State) (c : BitVec 4) : (finish s c).cmdl = s.cmdl := rfl
@[simp] theorem finish_pend (s : State) (c : BitVec 4) : (finish s c).pend = false := rfl
@[simp] theorem finish_rstN (s : State) (c : BitVec 4) : (finish s c).rstN = s.rstN := rfl
@[simp] theorem finish_inputs (s : State) (c : BitVec 4) : (finish s c).inputs = s.inputs := rfl
@[simp] theorem finish_reply (s : State) (c : BitVec 4) : (finish s c).reply = s.reply := rfl
@[simp] theorem finish_draws (s : State) (c : BitVec 4) : (finish s c).draws = s.draws := rfl

/-! ### accept (R110) -/

@[simp] theorem accept_v (s : State) (c : Word) : (accept s c).v = s.v := rfl
@[simp] theorem accept_pinf (s : State) (c : Word) : (accept s c).pinf = s.pinf := rfl
@[simp] theorem accept_cp (s : State) (c : Word) : (accept s c).cp = s.cp := rfl
@[simp] theorem accept_ca (s : State) (c : Word) : (accept s c).ca = s.ca := rfl
@[simp] theorem accept_cb (s : State) (c : Word) : (accept s c).cb = s.cb := rfl
@[simp] theorem accept_cn (s : State) (c : Word) : (accept s c).cn = s.cn := rfl
@[simp] theorem accept_sm3V (s : State) (c : Word) : (accept s c).sm3V = s.sm3V := rfl
@[simp] theorem accept_sm3Buf (s : State) (c : Word) : (accept s c).sm3Buf = s.sm3Buf := rfl
@[simp] theorem accept_sm3Active (s : State) (c : Word) : (accept s c).sm3Active = s.sm3Active := rfl
@[simp] theorem accept_sm3Cnt (s : State) (c : Word) : (accept s c).sm3Cnt = s.sm3Cnt := rfl
@[simp] theorem accept_sm4Key (s : State) (c : Word) : (accept s c).sm4Key = s.sm4Key := rfl
@[simp] theorem accept_sm4Din (s : State) (c : Word) : (accept s c).sm4Din = s.sm4Din := rfl
@[simp] theorem accept_sm4Dout (s : State) (c : Word) : (accept s c).sm4Dout = s.sm4Dout := rfl
@[simp] theorem accept_sm4Rk (s : State) (c : Word) : (accept s c).sm4Rk = s.sm4Rk := rfl
@[simp] theorem accept_keyValid (s : State) (c : Word) : (accept s c).keyValid = s.keyValid := rfl
@[simp] theorem accept_busy (s : State) (c : Word) : (accept s c).busy = true := rfl
@[simp] theorem accept_done (s : State) (c : Word) : (accept s c).done = false := rfl
@[simp] theorem accept_aerr (s : State) (c : Word) : (accept s c).aerr = s.aerr := rfl
@[simp] theorem accept_err (s : State) (c : Word) : (accept s c).err = 0 := rfl
@[simp] theorem accept_chk (s : State) (c : Word) : (accept s c).chk = s.chk := rfl
@[simp] theorem accept_ie (s : State) (c : Word) : (accept s c).ie = s.ie := rfl
@[simp] theorem accept_cmdl (s : State) (c : Word) : (accept s c).cmdl = c := rfl
@[simp] theorem accept_pend (s : State) (c : Word) : (accept s c).pend = true := rfl
@[simp] theorem accept_rstN (s : State) (c : Word) : (accept s c).rstN = s.rstN := rfl
@[simp] theorem accept_inputs (s : State) (c : Word) : (accept s c).inputs = s.inputs := rfl
@[simp] theorem accept_reply (s : State) (c : Word) : (accept s c).reply = s.reply := rfl
@[simp] theorem accept_draws (s : State) (c : Word) : (accept s c).draws = s.draws := rfl

/-! ### AccessError (R242) -/

@[simp] theorem accessError_v (s : State) : (accessError s).v = s.v := rfl
@[simp] theorem accessError_pinf (s : State) : (accessError s).pinf = s.pinf := rfl
@[simp] theorem accessError_cp (s : State) : (accessError s).cp = s.cp := rfl
@[simp] theorem accessError_ca (s : State) : (accessError s).ca = s.ca := rfl
@[simp] theorem accessError_cb (s : State) : (accessError s).cb = s.cb := rfl
@[simp] theorem accessError_cn (s : State) : (accessError s).cn = s.cn := rfl
@[simp] theorem accessError_sm3V (s : State) : (accessError s).sm3V = s.sm3V := rfl
@[simp] theorem accessError_sm3Buf (s : State) : (accessError s).sm3Buf = s.sm3Buf := rfl
@[simp] theorem accessError_sm3Active (s : State) : (accessError s).sm3Active = s.sm3Active := rfl
@[simp] theorem accessError_sm3Cnt (s : State) : (accessError s).sm3Cnt = s.sm3Cnt := rfl
@[simp] theorem accessError_sm4Key (s : State) : (accessError s).sm4Key = s.sm4Key := rfl
@[simp] theorem accessError_sm4Din (s : State) : (accessError s).sm4Din = s.sm4Din := rfl
@[simp] theorem accessError_sm4Dout (s : State) : (accessError s).sm4Dout = s.sm4Dout := rfl
@[simp] theorem accessError_sm4Rk (s : State) : (accessError s).sm4Rk = s.sm4Rk := rfl
@[simp] theorem accessError_keyValid (s : State) : (accessError s).keyValid = s.keyValid := rfl
@[simp] theorem accessError_busy (s : State) : (accessError s).busy = s.busy := rfl
@[simp] theorem accessError_done (s : State) : (accessError s).done = s.done := rfl
@[simp] theorem accessError_aerr (s : State) : (accessError s).aerr = true := rfl
@[simp] theorem accessError_err (s : State) : (accessError s).err = s.err := rfl
@[simp] theorem accessError_chk (s : State) : (accessError s).chk = s.chk := rfl
@[simp] theorem accessError_ie (s : State) : (accessError s).ie = s.ie := rfl
@[simp] theorem accessError_cmdl (s : State) : (accessError s).cmdl = s.cmdl := rfl
@[simp] theorem accessError_pend (s : State) : (accessError s).pend = s.pend := rfl
@[simp] theorem accessError_rstN (s : State) : (accessError s).rstN = s.rstN := rfl
@[simp] theorem accessError_inputs (s : State) : (accessError s).inputs = s.inputs := rfl
@[simp] theorem accessError_reply (s : State) : (accessError s).reply = s.reply := rfl
@[simp] theorem accessError_draws (s : State) : (accessError s).draws = s.draws := rfl

/-! ### a reset (R271) -/

@[simp] theorem resetRegs_v (s : State) : (resetRegs s).v = Vector.replicate 16 0 := rfl
@[simp] theorem resetRegs_pinf (s : State) : (resetRegs s).pinf = 0 := rfl
@[simp] theorem resetRegs_cp (s : State) : (resetRegs s).cp = 0 := rfl
@[simp] theorem resetRegs_ca (s : State) : (resetRegs s).ca = 0 := rfl
@[simp] theorem resetRegs_cb (s : State) : (resetRegs s).cb = 0 := rfl
@[simp] theorem resetRegs_cn (s : State) : (resetRegs s).cn = 0 := rfl
@[simp] theorem resetRegs_sm3V (s : State) : (resetRegs s).sm3V = Vector.replicate 8 0 := rfl
@[simp] theorem resetRegs_sm3Buf (s : State) : (resetRegs s).sm3Buf = Vector.replicate 16 0 := rfl
@[simp] theorem resetRegs_sm3Active (s : State) : (resetRegs s).sm3Active = false := rfl
@[simp] theorem resetRegs_sm3Cnt (s : State) : (resetRegs s).sm3Cnt = 0 := rfl
@[simp] theorem resetRegs_sm4Key (s : State) : (resetRegs s).sm4Key = Vector.replicate 4 0 := rfl
@[simp] theorem resetRegs_sm4Din (s : State) : (resetRegs s).sm4Din = Vector.replicate 4 0 := rfl
@[simp] theorem resetRegs_sm4Dout (s : State) : (resetRegs s).sm4Dout = Vector.replicate 4 0 := rfl
@[simp] theorem resetRegs_sm4Rk (s : State) : (resetRegs s).sm4Rk = Vector.replicate 32 0 := rfl
@[simp] theorem resetRegs_keyValid (s : State) : (resetRegs s).keyValid = false := rfl
@[simp] theorem resetRegs_busy (s : State) : (resetRegs s).busy = false := rfl
@[simp] theorem resetRegs_done (s : State) : (resetRegs s).done = false := rfl
@[simp] theorem resetRegs_aerr (s : State) : (resetRegs s).aerr = false := rfl
@[simp] theorem resetRegs_err (s : State) : (resetRegs s).err = 0 := rfl
@[simp] theorem resetRegs_chk (s : State) : (resetRegs s).chk = 0 := rfl
@[simp] theorem resetRegs_ie (s : State) : (resetRegs s).ie = false := rfl
@[simp] theorem resetRegs_cmdl (s : State) : (resetRegs s).cmdl = 0 := rfl
@[simp] theorem resetRegs_pend (s : State) : (resetRegs s).pend = false := rfl
@[simp] theorem resetRegs_rstN (s : State) : (resetRegs s).rstN = s.rstN := rfl
@[simp] theorem resetRegs_inputs (s : State) : (resetRegs s).inputs = s.inputs := rfl
@[simp] theorem resetRegs_reply (s : State) : (resetRegs s).reply = s.reply := rfl
@[simp] theorem resetRegs_draws (s : State) : (resetRegs s).draws = s.draws := rfl

/-! ### the start of a step -/

@[simp] theorem takeInput_v (s : State) (l : List Input) : (takeInput s l).v = s.v := rfl
@[simp] theorem takeInput_pinf (s : State) (l : List Input) : (takeInput s l).pinf = s.pinf := rfl
@[simp] theorem takeInput_cp (s : State) (l : List Input) : (takeInput s l).cp = s.cp := rfl
@[simp] theorem takeInput_ca (s : State) (l : List Input) : (takeInput s l).ca = s.ca := rfl
@[simp] theorem takeInput_cb (s : State) (l : List Input) : (takeInput s l).cb = s.cb := rfl
@[simp] theorem takeInput_cn (s : State) (l : List Input) : (takeInput s l).cn = s.cn := rfl
@[simp] theorem takeInput_sm3V (s : State) (l : List Input) : (takeInput s l).sm3V = s.sm3V := rfl
@[simp] theorem takeInput_sm3Buf (s : State) (l : List Input) : (takeInput s l).sm3Buf = s.sm3Buf := rfl
@[simp] theorem takeInput_sm3Active (s : State) (l : List Input) : (takeInput s l).sm3Active = s.sm3Active := rfl
@[simp] theorem takeInput_sm3Cnt (s : State) (l : List Input) : (takeInput s l).sm3Cnt = s.sm3Cnt := rfl
@[simp] theorem takeInput_sm4Key (s : State) (l : List Input) : (takeInput s l).sm4Key = s.sm4Key := rfl
@[simp] theorem takeInput_sm4Din (s : State) (l : List Input) : (takeInput s l).sm4Din = s.sm4Din := rfl
@[simp] theorem takeInput_sm4Dout (s : State) (l : List Input) : (takeInput s l).sm4Dout = s.sm4Dout := rfl
@[simp] theorem takeInput_sm4Rk (s : State) (l : List Input) : (takeInput s l).sm4Rk = s.sm4Rk := rfl
@[simp] theorem takeInput_keyValid (s : State) (l : List Input) : (takeInput s l).keyValid = s.keyValid := rfl
@[simp] theorem takeInput_busy (s : State) (l : List Input) : (takeInput s l).busy = s.busy := rfl
@[simp] theorem takeInput_done (s : State) (l : List Input) : (takeInput s l).done = s.done := rfl
@[simp] theorem takeInput_aerr (s : State) (l : List Input) : (takeInput s l).aerr = s.aerr := rfl
@[simp] theorem takeInput_err (s : State) (l : List Input) : (takeInput s l).err = s.err := rfl
@[simp] theorem takeInput_chk (s : State) (l : List Input) : (takeInput s l).chk = s.chk := rfl
@[simp] theorem takeInput_ie (s : State) (l : List Input) : (takeInput s l).ie = s.ie := rfl
@[simp] theorem takeInput_cmdl (s : State) (l : List Input) : (takeInput s l).cmdl = s.cmdl := rfl
@[simp] theorem takeInput_pend (s : State) (l : List Input) : (takeInput s l).pend = s.pend := rfl
@[simp] theorem takeInput_rstN (s : State) (l : List Input) : (takeInput s l).rstN = s.rstN := rfl
@[simp] theorem takeInput_inputs (s : State) (l : List Input) : (takeInput s l).inputs = l := rfl
@[simp] theorem takeInput_reply (s : State) (l : List Input) : (takeInput s l).reply = none := rfl
@[simp] theorem takeInput_draws (s : State) (l : List Input) : (takeInput s l).draws = s.draws := rfl

/-! ### a draw taken (R155) -/

@[simp] theorem useDraw_v (s : State) : (useDraw s).v = s.v := rfl
@[simp] theorem useDraw_pinf (s : State) : (useDraw s).pinf = s.pinf := rfl
@[simp] theorem useDraw_cp (s : State) : (useDraw s).cp = s.cp := rfl
@[simp] theorem useDraw_ca (s : State) : (useDraw s).ca = s.ca := rfl
@[simp] theorem useDraw_cb (s : State) : (useDraw s).cb = s.cb := rfl
@[simp] theorem useDraw_cn (s : State) : (useDraw s).cn = s.cn := rfl
@[simp] theorem useDraw_sm3V (s : State) : (useDraw s).sm3V = s.sm3V := rfl
@[simp] theorem useDraw_sm3Buf (s : State) : (useDraw s).sm3Buf = s.sm3Buf := rfl
@[simp] theorem useDraw_sm3Active (s : State) : (useDraw s).sm3Active = s.sm3Active := rfl
@[simp] theorem useDraw_sm3Cnt (s : State) : (useDraw s).sm3Cnt = s.sm3Cnt := rfl
@[simp] theorem useDraw_sm4Key (s : State) : (useDraw s).sm4Key = s.sm4Key := rfl
@[simp] theorem useDraw_sm4Din (s : State) : (useDraw s).sm4Din = s.sm4Din := rfl
@[simp] theorem useDraw_sm4Dout (s : State) : (useDraw s).sm4Dout = s.sm4Dout := rfl
@[simp] theorem useDraw_sm4Rk (s : State) : (useDraw s).sm4Rk = s.sm4Rk := rfl
@[simp] theorem useDraw_keyValid (s : State) : (useDraw s).keyValid = s.keyValid := rfl
@[simp] theorem useDraw_busy (s : State) : (useDraw s).busy = s.busy := rfl
@[simp] theorem useDraw_done (s : State) : (useDraw s).done = s.done := rfl
@[simp] theorem useDraw_aerr (s : State) : (useDraw s).aerr = s.aerr := rfl
@[simp] theorem useDraw_err (s : State) : (useDraw s).err = s.err := rfl
@[simp] theorem useDraw_chk (s : State) : (useDraw s).chk = s.chk := rfl
@[simp] theorem useDraw_ie (s : State) : (useDraw s).ie = s.ie := rfl
@[simp] theorem useDraw_cmdl (s : State) : (useDraw s).cmdl = s.cmdl := rfl
@[simp] theorem useDraw_pend (s : State) : (useDraw s).pend = s.pend := rfl
@[simp] theorem useDraw_rstN (s : State) : (useDraw s).rstN = s.rstN := rfl
@[simp] theorem useDraw_inputs (s : State) : (useDraw s).inputs = s.inputs := rfl
@[simp] theorem useDraw_reply (s : State) : (useDraw s).reply = s.reply := rfl
@[simp] theorem useDraw_draws (s : State) : (useDraw s).draws = s.draws + 1 := rfl

/-! ### the SM2 curve loaded (R161) -/

@[simp] theorem loadSm2Curve_v (s : State) : (loadSm2Curve s).v = s.v := rfl
@[simp] theorem loadSm2Curve_pinf (s : State) : (loadSm2Curve s).pinf = s.pinf := rfl
@[simp] theorem loadSm2Curve_cp (s : State) : (loadSm2Curve s).cp = sm2P := rfl
@[simp] theorem loadSm2Curve_ca (s : State) : (loadSm2Curve s).ca = sm2A := rfl
@[simp] theorem loadSm2Curve_cb (s : State) : (loadSm2Curve s).cb = sm2B := rfl
@[simp] theorem loadSm2Curve_cn (s : State) : (loadSm2Curve s).cn = sm2N := rfl
@[simp] theorem loadSm2Curve_sm3V (s : State) : (loadSm2Curve s).sm3V = s.sm3V := rfl
@[simp] theorem loadSm2Curve_sm3Buf (s : State) : (loadSm2Curve s).sm3Buf = s.sm3Buf := rfl
@[simp] theorem loadSm2Curve_sm3Active (s : State) : (loadSm2Curve s).sm3Active = s.sm3Active := rfl
@[simp] theorem loadSm2Curve_sm3Cnt (s : State) : (loadSm2Curve s).sm3Cnt = s.sm3Cnt := rfl
@[simp] theorem loadSm2Curve_sm4Key (s : State) : (loadSm2Curve s).sm4Key = s.sm4Key := rfl
@[simp] theorem loadSm2Curve_sm4Din (s : State) : (loadSm2Curve s).sm4Din = s.sm4Din := rfl
@[simp] theorem loadSm2Curve_sm4Dout (s : State) : (loadSm2Curve s).sm4Dout = s.sm4Dout := rfl
@[simp] theorem loadSm2Curve_sm4Rk (s : State) : (loadSm2Curve s).sm4Rk = s.sm4Rk := rfl
@[simp] theorem loadSm2Curve_keyValid (s : State) : (loadSm2Curve s).keyValid = s.keyValid := rfl
@[simp] theorem loadSm2Curve_busy (s : State) : (loadSm2Curve s).busy = s.busy := rfl
@[simp] theorem loadSm2Curve_done (s : State) : (loadSm2Curve s).done = s.done := rfl
@[simp] theorem loadSm2Curve_aerr (s : State) : (loadSm2Curve s).aerr = s.aerr := rfl
@[simp] theorem loadSm2Curve_err (s : State) : (loadSm2Curve s).err = s.err := rfl
@[simp] theorem loadSm2Curve_chk (s : State) : (loadSm2Curve s).chk = s.chk := rfl
@[simp] theorem loadSm2Curve_ie (s : State) : (loadSm2Curve s).ie = s.ie := rfl
@[simp] theorem loadSm2Curve_cmdl (s : State) : (loadSm2Curve s).cmdl = s.cmdl := rfl
@[simp] theorem loadSm2Curve_pend (s : State) : (loadSm2Curve s).pend = s.pend := rfl
@[simp] theorem loadSm2Curve_rstN (s : State) : (loadSm2Curve s).rstN = s.rstN := rfl
@[simp] theorem loadSm2Curve_inputs (s : State) : (loadSm2Curve s).inputs = s.inputs := rfl
@[simp] theorem loadSm2Curve_reply (s : State) : (loadSm2Curve s).reply = s.reply := rfl
@[simp] theorem loadSm2Curve_draws (s : State) : (loadSm2Curve s).draws = s.draws := rfl

/-! ### SM3INIT's writes (R188) -/

@[simp] theorem startHash_v (s : State) : (startHash s).v = s.v := rfl
@[simp] theorem startHash_pinf (s : State) : (startHash s).pinf = s.pinf := rfl
@[simp] theorem startHash_cp (s : State) : (startHash s).cp = s.cp := rfl
@[simp] theorem startHash_ca (s : State) : (startHash s).ca = s.ca := rfl
@[simp] theorem startHash_cb (s : State) : (startHash s).cb = s.cb := rfl
@[simp] theorem startHash_cn (s : State) : (startHash s).cn = s.cn := rfl
@[simp] theorem startHash_sm3V (s : State) : (startHash s).sm3V = sm3Iv := rfl
@[simp] theorem startHash_sm3Buf (s : State) : (startHash s).sm3Buf = s.sm3Buf := rfl
@[simp] theorem startHash_sm3Active (s : State) : (startHash s).sm3Active = true := rfl
@[simp] theorem startHash_sm3Cnt (s : State) : (startHash s).sm3Cnt = 0 := rfl
@[simp] theorem startHash_sm4Key (s : State) : (startHash s).sm4Key = s.sm4Key := rfl
@[simp] theorem startHash_sm4Din (s : State) : (startHash s).sm4Din = s.sm4Din := rfl
@[simp] theorem startHash_sm4Dout (s : State) : (startHash s).sm4Dout = s.sm4Dout := rfl
@[simp] theorem startHash_sm4Rk (s : State) : (startHash s).sm4Rk = s.sm4Rk := rfl
@[simp] theorem startHash_keyValid (s : State) : (startHash s).keyValid = s.keyValid := rfl
@[simp] theorem startHash_busy (s : State) : (startHash s).busy = s.busy := rfl
@[simp] theorem startHash_done (s : State) : (startHash s).done = s.done := rfl
@[simp] theorem startHash_aerr (s : State) : (startHash s).aerr = s.aerr := rfl
@[simp] theorem startHash_err (s : State) : (startHash s).err = s.err := rfl
@[simp] theorem startHash_chk (s : State) : (startHash s).chk = s.chk := rfl
@[simp] theorem startHash_ie (s : State) : (startHash s).ie = s.ie := rfl
@[simp] theorem startHash_cmdl (s : State) : (startHash s).cmdl = s.cmdl := rfl
@[simp] theorem startHash_pend (s : State) : (startHash s).pend = s.pend := rfl
@[simp] theorem startHash_rstN (s : State) : (startHash s).rstN = s.rstN := rfl
@[simp] theorem startHash_inputs (s : State) : (startHash s).inputs = s.inputs := rfl
@[simp] theorem startHash_reply (s : State) : (startHash s).reply = s.reply := rfl
@[simp] theorem startHash_draws (s : State) : (startHash s).draws = s.draws := rfl

/-! ### SM3BLK's writes (R189) -/

@[simp] theorem absorbBlock_v (s : State) : (absorbBlock s).v = s.v := rfl
@[simp] theorem absorbBlock_pinf (s : State) : (absorbBlock s).pinf = s.pinf := rfl
@[simp] theorem absorbBlock_cp (s : State) : (absorbBlock s).cp = s.cp := rfl
@[simp] theorem absorbBlock_ca (s : State) : (absorbBlock s).ca = s.ca := rfl
@[simp] theorem absorbBlock_cb (s : State) : (absorbBlock s).cb = s.cb := rfl
@[simp] theorem absorbBlock_cn (s : State) : (absorbBlock s).cn = s.cn := rfl
@[simp] theorem absorbBlock_sm3V (s : State) : (absorbBlock s).sm3V = sm3CF s.sm3V s.sm3Buf := rfl
@[simp] theorem absorbBlock_sm3Buf (s : State) : (absorbBlock s).sm3Buf = s.sm3Buf := rfl
@[simp] theorem absorbBlock_sm3Active (s : State) : (absorbBlock s).sm3Active = s.sm3Active := rfl
@[simp] theorem absorbBlock_sm3Cnt (s : State) : (absorbBlock s).sm3Cnt = s.sm3Cnt + 64 := rfl
@[simp] theorem absorbBlock_sm4Key (s : State) : (absorbBlock s).sm4Key = s.sm4Key := rfl
@[simp] theorem absorbBlock_sm4Din (s : State) : (absorbBlock s).sm4Din = s.sm4Din := rfl
@[simp] theorem absorbBlock_sm4Dout (s : State) : (absorbBlock s).sm4Dout = s.sm4Dout := rfl
@[simp] theorem absorbBlock_sm4Rk (s : State) : (absorbBlock s).sm4Rk = s.sm4Rk := rfl
@[simp] theorem absorbBlock_keyValid (s : State) : (absorbBlock s).keyValid = s.keyValid := rfl
@[simp] theorem absorbBlock_busy (s : State) : (absorbBlock s).busy = s.busy := rfl
@[simp] theorem absorbBlock_done (s : State) : (absorbBlock s).done = s.done := rfl
@[simp] theorem absorbBlock_aerr (s : State) : (absorbBlock s).aerr = s.aerr := rfl
@[simp] theorem absorbBlock_err (s : State) : (absorbBlock s).err = s.err := rfl
@[simp] theorem absorbBlock_chk (s : State) : (absorbBlock s).chk = s.chk := rfl
@[simp] theorem absorbBlock_ie (s : State) : (absorbBlock s).ie = s.ie := rfl
@[simp] theorem absorbBlock_cmdl (s : State) : (absorbBlock s).cmdl = s.cmdl := rfl
@[simp] theorem absorbBlock_pend (s : State) : (absorbBlock s).pend = s.pend := rfl
@[simp] theorem absorbBlock_rstN (s : State) : (absorbBlock s).rstN = s.rstN := rfl
@[simp] theorem absorbBlock_inputs (s : State) : (absorbBlock s).inputs = s.inputs := rfl
@[simp] theorem absorbBlock_reply (s : State) : (absorbBlock s).reply = s.reply := rfl
@[simp] theorem absorbBlock_draws (s : State) : (absorbBlock s).draws = s.draws := rfl

/-! ### SM3FIN's writes (R190) -/

@[simp] theorem finishHash_v (s : State) (n : Len) : (finishHash s n).v = s.v := rfl
@[simp] theorem finishHash_pinf (s : State) (n : Len) : (finishHash s n).pinf = s.pinf := rfl
@[simp] theorem finishHash_cp (s : State) (n : Len) : (finishHash s n).cp = s.cp := rfl
@[simp] theorem finishHash_ca (s : State) (n : Len) : (finishHash s n).ca = s.ca := rfl
@[simp] theorem finishHash_cb (s : State) (n : Len) : (finishHash s n).cb = s.cb := rfl
@[simp] theorem finishHash_cn (s : State) (n : Len) : (finishHash s n).cn = s.cn := rfl
@[simp] theorem finishHash_sm3V (s : State) (n : Len) :
    (finishHash s n).sm3V = (padBlocks s.sm3Buf n.val (8 * finalCount s n)).foldl sm3CF s.sm3V := rfl
@[simp] theorem finishHash_sm3Buf (s : State) (n : Len) : (finishHash s n).sm3Buf = s.sm3Buf := rfl
@[simp] theorem finishHash_sm3Active (s : State) (n : Len) : (finishHash s n).sm3Active = false := rfl
@[simp] theorem finishHash_sm3Cnt (s : State) (n : Len) : (finishHash s n).sm3Cnt = finalCount s n := rfl
@[simp] theorem finishHash_sm4Key (s : State) (n : Len) : (finishHash s n).sm4Key = s.sm4Key := rfl
@[simp] theorem finishHash_sm4Din (s : State) (n : Len) : (finishHash s n).sm4Din = s.sm4Din := rfl
@[simp] theorem finishHash_sm4Dout (s : State) (n : Len) : (finishHash s n).sm4Dout = s.sm4Dout := rfl
@[simp] theorem finishHash_sm4Rk (s : State) (n : Len) : (finishHash s n).sm4Rk = s.sm4Rk := rfl
@[simp] theorem finishHash_keyValid (s : State) (n : Len) : (finishHash s n).keyValid = s.keyValid := rfl
@[simp] theorem finishHash_busy (s : State) (n : Len) : (finishHash s n).busy = s.busy := rfl
@[simp] theorem finishHash_done (s : State) (n : Len) : (finishHash s n).done = s.done := rfl
@[simp] theorem finishHash_aerr (s : State) (n : Len) : (finishHash s n).aerr = s.aerr := rfl
@[simp] theorem finishHash_err (s : State) (n : Len) : (finishHash s n).err = s.err := rfl
@[simp] theorem finishHash_chk (s : State) (n : Len) : (finishHash s n).chk = s.chk := rfl
@[simp] theorem finishHash_ie (s : State) (n : Len) : (finishHash s n).ie = s.ie := rfl
@[simp] theorem finishHash_cmdl (s : State) (n : Len) : (finishHash s n).cmdl = s.cmdl := rfl
@[simp] theorem finishHash_pend (s : State) (n : Len) : (finishHash s n).pend = s.pend := rfl
@[simp] theorem finishHash_rstN (s : State) (n : Len) : (finishHash s n).rstN = s.rstN := rfl
@[simp] theorem finishHash_inputs (s : State) (n : Len) : (finishHash s n).inputs = s.inputs := rfl
@[simp] theorem finishHash_reply (s : State) (n : Len) : (finishHash s n).reply = s.reply := rfl
@[simp] theorem finishHash_draws (s : State) (n : Len) : (finishHash s n).draws = s.draws := rfl

/-! ### SM4KEY's writes (R217) -/

@[simp] theorem expandKey_v (s : State) : (expandKey s).v = s.v := by simp only [expandKey]
@[simp] theorem expandKey_pinf (s : State) : (expandKey s).pinf = s.pinf := by simp only [expandKey]
@[simp] theorem expandKey_cp (s : State) : (expandKey s).cp = s.cp := by simp only [expandKey]
@[simp] theorem expandKey_ca (s : State) : (expandKey s).ca = s.ca := by simp only [expandKey]
@[simp] theorem expandKey_cb (s : State) : (expandKey s).cb = s.cb := by simp only [expandKey]
@[simp] theorem expandKey_cn (s : State) : (expandKey s).cn = s.cn := by simp only [expandKey]
@[simp] theorem expandKey_sm3V (s : State) : (expandKey s).sm3V = s.sm3V := by simp only [expandKey]
@[simp] theorem expandKey_sm3Buf (s : State) : (expandKey s).sm3Buf = s.sm3Buf := by simp only [expandKey]
@[simp] theorem expandKey_sm3Active (s : State) : (expandKey s).sm3Active = s.sm3Active := by simp only [expandKey]
@[simp] theorem expandKey_sm3Cnt (s : State) : (expandKey s).sm3Cnt = s.sm3Cnt := by simp only [expandKey]
@[simp] theorem expandKey_sm4Key (s : State) : (expandKey s).sm4Key = s.sm4Key := by simp only [expandKey]
@[simp] theorem expandKey_sm4Din (s : State) : (expandKey s).sm4Din = s.sm4Din := by simp only [expandKey]
@[simp] theorem expandKey_sm4Dout (s : State) : (expandKey s).sm4Dout = s.sm4Dout := by simp only [expandKey]
@[simp] theorem expandKey_sm4Rk (s : State) :
    (expandKey s).sm4Rk = keySchedule (quadOf s.sm4Key) := by simp only [expandKey]
@[simp] theorem expandKey_keyValid (s : State) : (expandKey s).keyValid = true := by simp only [expandKey]
@[simp] theorem expandKey_busy (s : State) : (expandKey s).busy = s.busy := by simp only [expandKey]
@[simp] theorem expandKey_done (s : State) : (expandKey s).done = s.done := by simp only [expandKey]
@[simp] theorem expandKey_aerr (s : State) : (expandKey s).aerr = s.aerr := by simp only [expandKey]
@[simp] theorem expandKey_err (s : State) : (expandKey s).err = s.err := by simp only [expandKey]
@[simp] theorem expandKey_chk (s : State) : (expandKey s).chk = s.chk := by simp only [expandKey]
@[simp] theorem expandKey_ie (s : State) : (expandKey s).ie = s.ie := by simp only [expandKey]
@[simp] theorem expandKey_cmdl (s : State) : (expandKey s).cmdl = s.cmdl := by simp only [expandKey]
@[simp] theorem expandKey_pend (s : State) : (expandKey s).pend = s.pend := by simp only [expandKey]
@[simp] theorem expandKey_rstN (s : State) : (expandKey s).rstN = s.rstN := by simp only [expandKey]
@[simp] theorem expandKey_inputs (s : State) : (expandKey s).inputs = s.inputs := by simp only [expandKey]
@[simp] theorem expandKey_reply (s : State) : (expandKey s).reply = s.reply := by simp only [expandKey]
@[simp] theorem expandKey_draws (s : State) : (expandKey s).draws = s.draws := by simp only [expandKey]

end Sys2Proof.Machine
end

