-- ==== Sys2Proof/Laws/Operands.lean ====
section
/-! SUPPORT. What the operand forms do: the words of a 256-bit register (10_state.md R21) and the infinity bits
(R23). -/

namespace Sys2Proof.Machine

/-! ### Words of a 256-bit register (R21) -/

theorem getLsbD_getWord (x : Big) (j : Fin 8) (i : Nat) :
    (getWord x j).getLsbD i = (decide (i < 32) && x.getLsbD (32 * (7 - j.val) + i)) := by
  simp [getWord, BitVec.getLsbD_extractLsb']

/-- The bits of word j: 32 ones at its place. -/
theorem getLsbD_wordMask (sh i : Nat) :
    ((BitVec.allOnes 32).setWidth 256 <<< sh).getLsbD i = decide (i < 256 ∧ sh ≤ i ∧ i < sh + 32) := by
  rw [BitVec.getLsbD_shiftLeft, BitVec.getLsbD_setWidth, BitVec.getLsbD_allOnes]
  rw [Bool.eq_iff_iff]
  simp only [Bool.and_eq_true, decide_eq_true_eq, Bool.not_eq_true', decide_eq_false_iff_not]
  omega

theorem getLsbD_setWord (x : Big) (j : Fin 8) (w : Word) (i : Nat) :
    (setWord x j w).getLsbD i =
      if 32 * (7 - j.val) ≤ i ∧ i < 32 * (7 - j.val) + 32 then w.getLsbD (i - 32 * (7 - j.val))
      else x.getLsbD i := by
  have hj := j.isLt
  have hw : (w.setWidth 256 <<< (32 * (7 - j.val))).getLsbD i =
      (decide (i < 256 ∧ 32 * (7 - j.val) ≤ i) && w.getLsbD (i - 32 * (7 - j.val))) := by
    rw [BitVec.getLsbD_shiftLeft, BitVec.getLsbD_setWidth]
    rw [Bool.eq_iff_iff]
    simp only [Bool.and_eq_true, decide_eq_true_eq, Bool.not_eq_true', decide_eq_false_iff_not]
    constructor
    · exact fun ⟨⟨h1, h2⟩, _, h4⟩ => ⟨⟨h1, by omega⟩, h4⟩
    · exact fun ⟨⟨h1, h2⟩, h3⟩ => ⟨⟨h1, by omega⟩, by omega, h3⟩
  rw [setWord, BitVec.getLsbD_or, BitVec.getLsbD_and, BitVec.getLsbD_not, getLsbD_wordMask, hw]
  by_cases h : 32 * (7 - j.val) ≤ i ∧ i < 32 * (7 - j.val) + 32
  · have h3 : i < 256 := by omega
    rw [if_pos h]; simp [h, h3]
  · rw [if_neg h]
    by_cases h3 : i < 256
    · by_cases h1 : 32 * (7 - j.val) ≤ i
      · simp [h, h3, BitVec.getLsbD_of_ge w (i - 32 * (7 - j.val)) (by omega)]
      · simp [h1, h3]
    · simp [h3, BitVec.getLsbD_of_ge x i (by omega)]

/-- A word just written reads back (R21, R65). -/
@[simp] theorem getWord_setWord_self (x : Big) (j : Fin 8) (w : Word) : getWord (setWord x j w) j = w := by
  apply BitVec.eq_of_getLsbD_eq
  intro i hi
  rw [getLsbD_getWord, getLsbD_setWord, if_pos (by omega)]
  simp [hi]

/-- The other words keep their values (R21, R65). -/
theorem getWord_setWord_ne (x : Big) {j k : Fin 8} (w : Word) (h : k ≠ j) :
    getWord (setWord x j w) k = getWord x k := by
  have hjk : k.val ≠ j.val := fun h' => h (Fin.ext h')
  have hj := j.isLt
  have hk := k.isLt
  apply BitVec.eq_of_getLsbD_eq
  intro i hi
  rw [getLsbD_getWord, getLsbD_setWord, getLsbD_getWord, if_neg (by omega)]

/-- A 256-bit register is its eight words (R21). -/
theorem big_ext {x y : Big} (h : ∀ j : Fin 8, getWord x j = getWord y j) : x = y := by
  apply BitVec.eq_of_getLsbD_eq
  intro i hi
  have hj := congrArg (fun w : Word => w.getLsbD (i % 32)) (h ⟨7 - i / 32, by omega⟩)
  simp only [getLsbD_getWord] at hj
  have h1 : i % 32 < 32 := Nat.mod_lt _ (by omega)
  have h2 : 32 * (7 - (7 - i / 32)) + i % 32 = i := by omega
  simpa [h1, h2] using hj

/-! ### Infinity bits (R22, R23) -/

/-- Only INF[k] changes (R154). -/
theorem getLsbD_setInfBit (p : BitVec 8) (k : PReg) (b : Bool) (i : Nat) :
    (setInfBit p k b).getLsbD i = if i = k.val then b else p.getLsbD i := by
  have hk := k.isLt
  have hone : (1#8 <<< k.val).getLsbD i = decide (i = k.val) := by
    rw [BitVec.getLsbD_shiftLeft, BitVec.getLsbD_one]
    by_cases h : i = k.val
    · subst h; simp
    · by_cases h2 : i < k.val
      · simp [h, h2]
      · have : i - k.val ≠ 0 := by omega
        simp [h, this]
  cases b
  · rw [setInfBit, if_neg Bool.false_ne_true, BitVec.getLsbD_and, BitVec.getLsbD_not, hone]
    by_cases h : i = k.val <;> by_cases h8 : i < 8 <;> simp [h, h8]
    exact BitVec.getLsbD_of_ge p i (by omega)
  · rw [setInfBit, if_pos rfl, BitVec.getLsbD_or, hone]
    by_cases h : i = k.val <;> simp [h]

/-- The coordinate registers of the point registers are all different (R22). -/
theorem xReg_ne_yReg (k l : PReg) : xReg k ≠ yReg l := by
  intro h; have := congrArg Fin.val h; simp [xReg, yReg] at this; omega

end Sys2Proof.Machine
end

