-- ==== Sys2Proof/Laws/Ops.lean ====
section
/-! SUPPORT. What each shared operation can do, said once: a commit, the completion of a command, the engine's turn,
a host access. -/

namespace Sys2Proof.Machine

/-! ### Commit (40_execution.md R111, R113) -/

@[simp] theorem commit_ok (s t : State) : commit s (.ok t) = finish t 0 := rfl

@[simp] theorem commit_error (s : State) (e : CmdError) : commit s (.error e) = finish s (errValue e) := rfl

@[simp] theorem commit_storeV_ok (s : State) (rd : VReg) (x : Big) :
    commit s (storeV s rd (.ok x)) = finish (s.setV rd x) 0 := rfl

@[simp] theorem commit_storeV_error (s : State) (rd : VReg) (e : CmdError) :
    commit s (storeV s rd (.error e)) = finish s (errValue e) := rfl

@[simp] theorem completePoint_true (s : State) (pd : PReg) (r : Point) :
    completePoint s true pd r = finish (writePoint s pd r) 0 := rfl

theorem errValue_le (e : CmdError) : (errValue e).toNat ≤ 5 := by cases e <;> decide

theorem errValue_ne_zero (e : CmdError) : errValue e ≠ 0 := by cases e <;> decide

/-- What no command writes: the SM3 buffer, the SM4 key and input, AERR, IE, the latch, the pin, and the model's own
inputs and reply (10_state.md R26, R33; 60_exceptions.md R243). -/
structure EngineKeeps (s t : State) : Prop where
  sm3Buf : t.sm3Buf = s.sm3Buf
  sm4Key : t.sm4Key = s.sm4Key
  sm4Din : t.sm4Din = s.sm4Din
  aerr : t.aerr = s.aerr
  ie : t.ie = s.ie
  cmdl : t.cmdl = s.cmdl
  rstN : t.rstN = s.rstN
  inputs : t.inputs = s.inputs
  reply : t.reply = s.reply

theorem engineKeeps_refl (s : State) : EngineKeeps s s := ⟨rfl, rfl, rfl, rfl, rfl, rfl, rfl, rfl, rfl⟩

/-- How a command ends: its writes with code 0, or an error code with none of them (R111, R113). In an EC draw the
model's draw counter has moved. -/
inductive Completion (s : State) : Host.Outcome State Fault Refusal → Prop where
  | success (t : State) (keeps : EngineKeeps s t) : Completion s (.next (finish t 0))
  | failure (e : CmdError) : Completion s (.next (finish s (errValue e)))
  | drawnFailure (e : CmdError) : Completion s (.next (finish (useDraw s) (errValue e)))

theorem completion_storeV (s : State) (rd : VReg) (r : Except CmdError Big) :
    Completion s (.next (commit s (storeV s rd r))) := by
  cases r with
  | error e => exact .failure e
  | ok x => exact .success (s.setV rd x) ⟨rfl, rfl, rfl, rfl, rfl, rfl, rfl, rfl, rfl⟩

theorem completion_point (s : State) (valid : Bool) (pd : PReg) (r : Point) :
    Completion s (.next (completePoint s valid pd r)) := by
  unfold completePoint
  split
  · exact .success (writePoint s pd r) ⟨rfl, rfl, rfl, rfl, rfl, rfl, rfl, rfl, rfl⟩
  · cases Config.ecDraw s.draws with
    | success q => exact .success (writePoint (useDraw s) pd q) ⟨rfl, rfl, rfl, rfl, rfl, rfl, rfl, rfl, rfl⟩
    | modZero => exact .drawnFailure .modZero
    | notInvertible => exact .drawnFailure .notInvertible

/-- Everything a command can do (R111): one of the ways to complete, from every state. -/
theorem exec_completion (i : Instr) (s : State) : Completion s (exec i s) := by
  cases i with
  | nop =>
    simp only [exec, execNop, commit_ok]
    exact .success s (engineKeeps_refl s)
  | madd vd va vb vm => exact completion_storeV s vd _
  | msub vd va vb vm => exact completion_storeV s vd _
  | mmul vd va vb vm => exact completion_storeV s vd _
  | mred vd va vm => exact completion_storeV s vd _
  | minv vd va vm => exact completion_storeV s vd _
  | mexp vd va ve vm => exact completion_storeV s vd _
  | ecadd pd p1 p2 => exact completion_point s _ pd _
  | ecdbl pd p1 => exact completion_point s _ pd _
  | ecmul pd p1 vk => exact completion_point s _ pd _
  | ecchk p1 =>
    simp only [exec, execEcchk]
    split
    · exact .failure .modZero
    · exact .success { s with chk := checkPoint s p1 } ⟨rfl, rfl, rfl, rfl, rfl, rfl, rfl, rfl, rfl⟩
  | ecldsm2 pd =>
    simp only [exec, execEcldsm2, commit_ok]
    exact .success _ ⟨rfl, rfl, rfl, rfl, rfl, rfl, rfl, rfl, rfl⟩
  | sm3init =>
    simp only [exec, execSm3init, commit_ok]
    exact .success _ ⟨rfl, rfl, rfl, rfl, rfl, rfl, rfl, rfl, rfl⟩
  | sm3blk =>
    simp only [exec, execSm3blk, whenActive]
    split
    · exact .success (absorbBlock s) ⟨rfl, rfl, rfl, rfl, rfl, rfl, rfl, rfl, rfl⟩
    · exact .failure .sm3Seq
  | sm3fin len =>
    simp only [exec, execSm3fin, whenActive]
    split
    · exact .success (finishHash s len) ⟨rfl, rfl, rfl, rfl, rfl, rfl, rfl, rfl, rfl⟩
    · exact .failure .sm3Seq
  | sm4key =>
    simp only [exec, execSm4key, commit_ok]
    exact .success _ (by constructor <;> simp)
  | sm4enc =>
    simp only [exec, execSm4enc, cryptBlock]
    split
    · exact .success _ ⟨rfl, rfl, rfl, rfl, rfl, rfl, rfl, rfl, rfl⟩
    · exact .failure .sm4NoKey
  | sm4dec =>
    simp only [exec, execSm4dec, cryptBlock]
    split
    · exact .success _ ⟨rfl, rfl, rfl, rfl, rfl, rfl, rfl, rfl, rfl⟩
    · exact .failure .sm4NoKey

/-- Everything the engine's turn can do (R111, R112): it passes, or it completes the latched command. -/
theorem engineTurn_cases (s : State) :
    (engineReady s = false ∧ engineTurn s = .next s) ∨
    (engineReady s = true ∧ Completion s (engineTurn s)) := by
  unfold engineTurn
  cases h : engineReady s with
  | false => exact .inl ⟨rfl, by simp⟩
  | true =>
    refine .inr ⟨rfl, ?_⟩
    simp only [if_true]
    split
    · exact exec_completion _ s
    · exact .failure .illegal

/-! ### Host accesses (20_memory.md R63 to R67) -/

/-- Everything a host access can do: answer a read, raise an access error, write STATUS or CTRL, accept a command or
write a data register while idle, or nothing while SMCORE is held in reset. -/
inductive AccessEffect (s : State) : State → Prop where
  | answer (x : Word) : AccessEffect s { s with reply := some x }
  | readError : AccessEffect s { accessError s with reply := some 0 }
  | error : AccessEffect s (accessError s)
  | status (w : Word) : AccessEffect s (writeStatus s w)
  | ctrl (w : Word) : AccessEffect s (writeCtrl s w)
  | store (r : Reg) (w : Word) (idle : s.busy = false) : AccessEffect s (writeReg s r w)
  | ignored : AccessEffect s s

theorem storeIdle_cases (s t : State) :
    (s.busy = true ∧ storeIdle s t = accessError s) ∨ (s.busy = false ∧ storeIdle s t = t) := by
  cases h : s.busy <;> simp [storeIdle, h]

theorem writeReg_effect (s : State) (r : Reg) (w : Word) : AccessEffect s (writeReg s r w) := by
  cases hb : s.busy with
  | false => exact .store r w hb
  | true =>
    cases r with
    | status => exact .status w
    | ctrl => exact .ctrl w
    | id | cmd | pinf | sm3Ctl | sm3CntHi | sm3CntLo | v | curve | sm3V | sm3Buf | sm4Key | sm4Din | sm4Dout
      | sm4Rk => simp only [writeReg, storeIdle, hb, if_true]; exact .error

theorem hostAccess_effect (s : State) (a : Access) : AccessEffect s (hostAccess s a) := by
  unfold hostAccess accessInReset hostRead hostWrite
  split
  · split
    · split
      · exact .answer _
      · exact .readError
    · split
      · exact writeReg_effect s _ _
      · exact .error
  · split
    · exact .answer 0
    · exact .ignored

end Sys2Proof.Machine
end

