-- ==== Sys2Proof/Laws/PerInstr.lean ====
section
/-! SUPPORT. What holds of every command as syntax, one lemma per constructor of `Instr`. -/

namespace Sys2Proof.Laws

/-- The opcode of a command (30_encoding.md R93). -/
def opcodeOf : Instr → Nat
  | .nop => 0x00
  | .madd _ _ _ _ => 0x01
  | .msub _ _ _ _ => 0x02
  | .mmul _ _ _ _ => 0x03
  | .mred _ _ _ => 0x04
  | .minv _ _ _ => 0x05
  | .mexp _ _ _ _ => 0x06
  | .ecadd _ _ _ => 0x10
  | .ecdbl _ _ => 0x11
  | .ecmul _ _ _ => 0x12
  | .ecchk _ => 0x13
  | .ecldsm2 _ => 0x14
  | .sm3init => 0x20
  | .sm3blk => 0x21
  | .sm3fin _ => 0x22
  | .sm4key => 0x30
  | .sm4enc => 0x31
  | .sm4dec => 0x32

namespace OpcodeField

/-- The word of a command holds its opcode in OP and 00 in RSV (R90, R93). -/
def Statement (i : Instr) : Prop := (opOf (encode i)).toNat = opcodeOf i ∧ (rsvOf (encode i)).toNat = 0

theorem of_pack {i : Instr} {op rd rs1 rs2 rs3 len : Nat} (he : encode i = packFields op rd rs1 rs2 rs3 len)
    (hop : opcodeOf i = op) (h0 : op < 256) (h1 : rd < 16) (h2 : rs1 < 16) (h3 : rs2 < 16) (h4 : rs3 < 16)
    (h5 : len < 64) : Statement i := by
  obtain ⟨a, _, _, _, _, _, b⟩ := packFields_fields h0 h1 h2 h3 h4 h5
  exact ⟨by rw [he, hop, a], by rw [he, b]⟩

theorem nop : Statement .nop := of_pack rfl rfl (by omega) (by omega) (by omega) (by omega) (by omega) (by omega)
theorem madd (vd va vb vm : VReg) : Statement (.madd vd va vb vm) :=
  of_pack rfl rfl (by omega) (by omega) (by omega) (by omega) (by omega) (by omega)
theorem msub (vd va vb vm : VReg) : Statement (.msub vd va vb vm) :=
  of_pack rfl rfl (by omega) (by omega) (by omega) (by omega) (by omega) (by omega)
theorem mmul (vd va vb vm : VReg) : Statement (.mmul vd va vb vm) :=
  of_pack rfl rfl (by omega) (by omega) (by omega) (by omega) (by omega) (by omega)
theorem mred (vd va vm : VReg) : Statement (.mred vd va vm) :=
  of_pack rfl rfl (by omega) (by omega) (by omega) (by omega) (by omega) (by omega)
theorem minv (vd va vm : VReg) : Statement (.minv vd va vm) :=
  of_pack rfl rfl (by omega) (by omega) (by omega) (by omega) (by omega) (by omega)
theorem mexp (vd va ve vm : VReg) : Statement (.mexp vd va ve vm) :=
  of_pack rfl rfl (by omega) (by omega) (by omega) (by omega) (by omega) (by omega)
theorem ecadd (pd p1 p2 : PReg) : Statement (.ecadd pd p1 p2) :=
  of_pack rfl rfl (by omega) (by omega) (by omega) (by omega) (by omega) (by omega)
theorem ecdbl (pd p1 : PReg) : Statement (.ecdbl pd p1) :=
  of_pack rfl rfl (by omega) (by omega) (by omega) (by omega) (by omega) (by omega)
theorem ecmul (pd p1 : PReg) (vk : VReg) : Statement (.ecmul pd p1 vk) :=
  of_pack rfl rfl (by omega) (by omega) (by omega) (by omega) (by omega) (by omega)
theorem ecchk (p1 : PReg) : Statement (.ecchk p1) :=
  of_pack rfl rfl (by omega) (by omega) (by omega) (by omega) (by omega) (by omega)
theorem ecldsm2 (pd : PReg) : Statement (.ecldsm2 pd) :=
  of_pack rfl rfl (by omega) (by omega) (by omega) (by omega) (by omega) (by omega)
theorem sm3init : Statement .sm3init :=
  of_pack rfl rfl (by omega) (by omega) (by omega) (by omega) (by omega) (by omega)
theorem sm3blk : Statement .sm3blk :=
  of_pack rfl rfl (by omega) (by omega) (by omega) (by omega) (by omega) (by omega)
theorem sm3fin (len : Len) : Statement (.sm3fin len) :=
  of_pack rfl rfl (by omega) (by omega) (by omega) (by omega) (by omega) (by omega)
theorem sm4key : Statement .sm4key :=
  of_pack rfl rfl (by omega) (by omega) (by omega) (by omega) (by omega) (by omega)
theorem sm4enc : Statement .sm4enc :=
  of_pack rfl rfl (by omega) (by omega) (by omega) (by omega) (by omega) (by omega)
theorem sm4dec : Statement .sm4dec :=
  of_pack rfl rfl (by omega) (by omega) (by omega) (by omega) (by omega) (by omega)

end OpcodeField

end Sys2Proof.Laws
end

