-- ==== Sys2Proof/Tests/Slice0.lean ====
section
/-! SUPPORT. Tests of the model against the worked examples of spec/ (30_encoding.md R99, 95_test_vectors.md), and for
every statement with hypotheses a witness that meets them together. -/

namespace Sys2Proof.Tests

set_option Elab.async false

open Sys2Proof Sys2Proof.Machine Sys2Proof.Safety Sys2Proof.Statements

/-! ### The assembler's checks (R97): one ill-formed form for each -/

theorem test_wf_operands_missing : assemble ⟨.MADD, [.v 0, .v 1, .v 2]⟩ = .error .operandForm := by decide
theorem test_wf_operand_class : assemble ⟨.ECMUL, [.p 0, .p 1, .p 2]⟩ = .error .operandForm := by decide
theorem test_wf_v16 : assemble ⟨.MRED, [.v 0, .v 16, .v 2]⟩ = .error .vRange := by decide
theorem test_wf_p8 : assemble ⟨.ECADD, [.p 0, .p 1, .p 8]⟩ = .error .pRange := by decide
theorem test_wf_len64 : assemble ⟨.SM3FIN, [.imm 64]⟩ = .error .lenRange := by decide
theorem test_wf_refused :
    AsmForm.wellFormed ⟨.NOP, [.v 0]⟩ = false ∧ AsmForm.wellFormed ⟨.ECCHK, [.p 8]⟩ = false ∧
    AsmForm.wellFormed ⟨.SM3FIN, [.imm 63]⟩ = true ∧ Instr.wellFormed (.ecldsm2 7) = true := by decide

/-! ### Decoding: a word of every command, written from R90 and R93 or listed in R99 and 95_test_vectors.md L2.1 -/

theorem test_decode_nop : decode 0x00000000 = .ok .nop := by decide
theorem test_decode_madd : decode 0x00021301 = .ok (.madd 3 1 2 0) := by decide
theorem test_decode_msub : decode 0b00000000_0101_0110_0111_1000_00000010 = .ok (.msub 8 7 6 5) := by decide
theorem test_decode_mmul : decode 0x00314503 = .ok (.mmul 5 4 1 3) := by decide
theorem test_decode_mred : decode 0b00000000_1100_0000_1011_1010_00000100 = .ok (.mred 10 11 12) := by decide
theorem test_decode_minv : decode 0x00301405 = .ok (.minv 4 1 3) := by decide
theorem test_decode_mexp : decode 0x00FFFF06 = .ok (.mexp 15 15 15 15) := by decide
theorem test_decode_ecadd : decode 0x00010110 = .ok (.ecadd 1 0 1) := by decide
theorem test_decode_ecdbl : decode 0x00000511 = .ok (.ecdbl 5 0) := by decide
theorem test_decode_ecmul : decode 0x000A0112 = .ok (.ecmul 1 0 10) := by decide
theorem test_decode_ecchk : decode 0x00004013 = .ok (.ecchk 4) := by decide
theorem test_decode_ecldsm2 : decode 0x00000714 = .ok (.ecldsm2 7) := by decide
theorem test_decode_sm3init : decode 0x00000020 = .ok .sm3init := by decide
theorem test_decode_sm3blk : decode 0x00000021 = .ok .sm3blk := by decide
theorem test_decode_sm3fin : decode 0x03000022 = .ok (.sm3fin 3) := by decide
theorem test_decode_sm4key : decode 0x00000030 = .ok .sm4key := by decide
theorem test_decode_sm4enc : decode 0x00000031 = .ok .sm4enc := by decide
theorem test_decode_sm4dec : decode 0x00000032 = .ok .sm4dec := by decide

/-- L2.1: words that are illegal, one for each reason, at the fields' boundaries. -/
theorem test_decode_illegal :
    decode 0x80000030 = .error .reservedBits ∧ decode 0x00000007 = .error .reservedOp ∧
    decode 0x00000015 = .error .reservedOp ∧ decode 0x00000023 = .error .reservedOp ∧
    decode 0x00000033 = .error .reservedOp ∧ decode 0x00000122 = .error .unusedField ∧
    decode 0x00800112 = .error .unusedField ∧ decode 0x00000813 = .error .unusedField ∧
    decode 0x00080110 = .error .pointRange ∧ decode 0x00008013 = .error .pointRange ∧
    decode 0x00000814 = .error .pointRange := by decide

/-- The table's word of ECMUL, 32 bits of it, is the model's word. -/
theorem test_table_word : decodeTableWord 32 0x00080312 = some (.ecmul 3 0 8) := by decide

/-! ### Small states -/

/-- The state an outcome gives, if it is a next state. -/
def nextOf : Host.Outcome State Fault Refusal → Option State
  | .next t => some t
  | .fault _ => none
  | .refused _ => none

/-- Reset with V1, V2, V3 loaded. -/
def withV (x1 x2 x3 : Big) : State := ((State.reset.setV 1 x1).setV 2 x2).setV 3 x3

/-- What V0 and ERR hold after a command. -/
def v0Of (i : Instr) (s : State) : Option (Big × BitVec 4) := (nextOf (exec i s)).map fun t => (t.v[0], t.err)

/-- E(17, 2, 2) of 95_test_vectors.md L2.3, P0 and P1 affine points, P2 the point at infinity, V15 a scalar. -/
def toy (x0 y0 x1 y1 k : Big) : State :=
  { State.reset with
    cp := 17, ca := 2, cb := 2, cn := 19, pinf := 0x04
    v := #v[x0, y0, x1, y1, 9, 9, 0, 0, 0, 0, 0, 0, 0, 0, 0, k] }

/-- The point that P3 holds after a command, and ERR. -/
def p3Of (i : Instr) (s : State) : Option (Point × BitVec 4) :=
  (nextOf (exec i s)).map fun t => (readPoint t 3, t.err)

/-- Reset with the SM4 key and input block of L1.2 V4, and the key expanded. -/
def sm4Loaded : State :=
  { State.reset with
    sm4Key := #v[0x01234567, 0x89ABCDEF, 0xFEDCBA98, 0x76543210]
    sm4Din := #v[0x01234567, 0x89ABCDEF, 0xFEDCBA98, 0x76543210] }

/-- A command in flight: NOP accepted, IE set. -/
def busyNop : State := accept { State.reset with ie := true } 0

/-! ### Commands, at most two small tests each -/

theorem test_nop : (nextOf (exec .nop State.reset)).map statusWord = some 0x00000002 := by decide +kernel

/-- L2.2: the carry out of 256 bits is kept. -/
theorem test_madd_carry : v0Of (.madd 0 1 2 3) (withV (-1) 1 (-1)) = some (1, 0) := by decide +kernel

/-- L2.2, aliasing: MADD v1, v1, v0, v2 with V1 = 10, V0 = 9, V2 = 17. -/
theorem test_madd_alias :
    (nextOf (exec (.madd 1 1 0 2) ((withV 10 17 0).setV 0 9))).map (fun t => t.v[1]) = some 2 := by decide +kernel

/-- L2.2: 3 − 5 mod 17, and 0 − (T−1) mod p, never negative. -/
theorem test_msub_negative : v0Of (.msub 0 1 2 3) (withV 3 5 17) = some (15, 0) := by decide +kernel
theorem test_msub_wraps : v0Of (.msub 0 1 2 3) (withV 0 (-1) sm2P) =
    some (0xFFFFFFFDFFFFFFFFFFFFFFFFFFFFFFFFFFFFFFFE00000001FFFFFFFFFFFFFFFF, 0) := by decide +kernel

theorem test_mmul_wide : v0Of (.mmul 0 1 2 3) (withV (-1) (-1) sm2N) =
    some (0x1EB5E410A22B3D3B620FC84C3AFFE0D3186C0F2121FBAD5137897AC1EFBBD167, 0) := by decide +kernel
theorem test_mmul_alias : (nextOf (exec (.mmul 3 3 3 3) (withV 0 0 5))).map (fun t => t.v[3]) = some 0 := by
  decide +kernel

theorem test_mred : v0Of (.mred 0 1 3) (withV (-1) 0 sm2N) =
    some (0x000000010000000000000000000000008DFC2094DE39FAD4AC440BF6C62ABEDC, 0) := by decide +kernel
theorem test_mred_zero : v0Of (.mred 0 1 3) (withV 5 0 0) = some (0, 2) := by decide +kernel

theorem test_minv : v0Of (.minv 0 1 3) (withV 4 0 497) = some (373, 0) := by decide +kernel
/-- L2.2, aliasing: V4 = 99 stays when 6 has no inverse modulo 9. -/
theorem test_minv_none :
    (nextOf (exec (.minv 4 1 3) ((withV 6 0 9).setV 4 99))).map (fun t => (t.v[4], t.err)) = some (99, 3) := by
  decide +kernel

theorem test_mexp : v0Of (.mexp 0 1 2 3) (withV 3 (-1) 1000) = some (707, 0) := by decide +kernel
theorem test_mexp_zero_power : v0Of (.mexp 0 1 2 3) (withV 0 0 5) = some (1, 0) := by decide +kernel

/-- L2.3: a chord, and P + (−P) = O with zero coordinates over the old ones. -/
theorem test_ecadd_chord : p3Of (.ecadd 3 0 1) (toy 6 3 5 1 0) = some (.affine 10 6, 0) := by decide +kernel
theorem test_ecadd_opposite :
    (nextOf (exec (.ecadd 0 0 1) (toy 5 1 5 16 0))).map (fun t => (t.pinf, t.v[0], t.v[1])) = some (0x05, 0, 0) := by
  decide +kernel

theorem test_ecdbl : p3Of (.ecdbl 3 0) (toy 5 1 0 0 0) = some (.affine 6 3, 0) := by decide +kernel
theorem test_ecdbl_infinity : p3Of (.ecdbl 3 2) (toy 5 1 0 0 0) = some (.inf, 0) := by decide +kernel

/-- L2.3: a scalar above the order is not reduced, all 256 bits count. -/
theorem test_ecmul_all_ones : p3Of (.ecmul 3 0 15) (toy 5 1 0 0 (-1)) = some (.affine 3 16, 0) := by decide +kernel
theorem test_ecmul_order : p3Of (.ecmul 3 0 15) (toy 5 1 0 0 19) = some (.inf, 0) := by decide +kernel

theorem test_ecchk_on : (nextOf (exec (.ecchk 0) (toy 0 6 0 0 0))).map statusWord = some 0x00000702 := by decide +kernel
/-- L2.3: SM2's (p, Gy) is out of range and off the curve. -/
theorem test_ecchk_off : (nextOf (exec (.ecchk 0) ((loadSm2Curve State.reset).setV 0 sm2P |>.setV 1 sm2Gy))).map
    (fun t => t.chk) = some 1 := by decide +kernel

theorem test_ecldsm2 : (nextOf (exec (.ecldsm2 7) { State.reset with pinf := 0xFF })).map
    (fun t => (t.pinf, t.v[14], t.cp - t.ca, checkPoint t 7)) = some (0x7F, sm2Gx, 3, 7) := by decide +kernel

theorem test_sm3init : (nextOf (exec .sm3init State.reset)).map statusWord = some 0x00001002 := by decide +kernel

theorem test_sm3blk :
    (nextOf (exec .sm3blk { startHash State.reset with sm3Buf := Vector.replicate 16 0x61626364 })).map
      (fun t => (t.sm3V, t.sm3Cnt)) = some (#v[0x5950DE81, 0x468664EB, 0x42FD4C86, 0x1E7CA00A, 0xC0A5910B, 0xAE9A55EA,
      0x1ADB8D17, 0x763CA222], 64) := by decide +kernel
theorem test_sm3blk_sequence : (nextOf (exec .sm3blk State.reset)).map statusWord = some 0x00000042 := by decide +kernel

/-- L1.2 V2: the digest of "abc", the buffer's other bytes ignored. -/
theorem test_sm3fin_abc :
    (nextOf (exec (.sm3fin 3) { startHash State.reset with sm3Buf := (Vector.replicate 16 0x55).set 0 0x61626399 })).map
      (fun t => (t.sm3V, t.sm3Cnt, t.sm3Active)) = some (#v[0x66C7F0F4, 0x62EEEDD9, 0xD1F2D46B, 0xDC10E4E2, 0x4167C487,
        0x5CF2F7A2, 0x297DA02B, 0x8F4BA8E0], 3, false) := by decide +kernel
/-- L2.4: 56 bytes left take two blocks. -/
theorem test_sm3fin_two_blocks :
    (nextOf (exec (.sm3fin 56) { startHash State.reset with sm3Buf := Vector.replicate 16 0x61616161 })).map
      (fun t => t.sm3V) = some #v[0xBA00EBED, 0xAAB54065, 0xA5FD4F9F, 0x56326016, 0x203166BC, 0xEE3EED44, 0xEA868D59,
        0xD67AA3C8] := by decide +kernel

theorem test_sm4key : (nextOf (exec .sm4key sm4Loaded)).map (fun t => (t.sm4Rk[0], t.sm4Rk[31], statusWord t)) =
    some (0xF12186F9, 0x9124A012, 0x00002002) := by decide +kernel

theorem test_sm4enc :
    ((nextOf (exec .sm4key sm4Loaded)).bind fun t => nextOf (exec .sm4enc t)).map (fun t => t.sm4Dout) =
    some #v[0x681EDF34, 0xD206965E, 0x86B3E94F, 0x536E4246] := by decide +kernel
theorem test_sm4enc_no_key : (nextOf (exec .sm4enc sm4Loaded)).map statusWord = some 0x00000052 := by decide +kernel

/-- L2.5: SM4DEC of the zero block under V4's key. -/
theorem test_sm4dec : ((nextOf (exec .sm4key sm4Loaded)).bind fun t =>
    nextOf (exec .sm4dec { t with sm4Din := Vector.replicate 4 0 })).map (fun t => t.sm4Dout) =
    some #v[0xF7D6B57E, 0xD4BA6AE1, 0xA630FAC4, 0x505C98A0] := by decide +kernel

/-! ### Lifecycle and accesses (L2.6) -/

theorem test_accept : statusWord busyNop = 0x00000001 ∧ irq busyNop = false := by decide +kernel
theorem test_complete : (nextOf (step busyNop)).map (fun t => (statusWord t, irq t)) = some (0x00000002, true) := by
  decide +kernel
theorem test_illegal : (nextOf (step (State.reset.withFetchWord 32 0x000000FF))).map statusWord = some 0x00000012 := by
  decide +kernel
theorem test_unmapped_read : (hostAccess State.reset (hostRD 0x020)).reply = some 0 ∧
    statusWord (hostAccess State.reset (hostRD 0x020)) = 0x00000004 := by decide +kernel
theorem test_misaligned : hostAccess State.reset (hostWR 0x101 0) = accessError State.reset := by decide +kernel
theorem test_half_strobe : hostAccess State.reset ⟨.write, 0x100, 0x3, 7⟩ = accessError State.reset := by decide +kernel
theorem test_busy_write : hostAccess busyNop (hostWR 0x100 0x1234) = accessError busyNop := by decide +kernel
theorem test_word_order : (hostAccess State.reset (hostWR 0x100 0x1234)).v[0] = 0x1234 <<< 224 := by decide +kernel
theorem test_soft_reset : hostAccess { busyNop with sm3Cnt := 5, pinf := 1 } (hostWR 0x00C 3) = State.reset := by
  decide +kernel
theorem test_wrv : hostRun State.reset (hostWRV 15 sm2P) = State.reset.setV 15 sm2P := by decide +kernel

/-! ### Witnesses: each meets all the hypotheses of its statement together, clause by clause -/

/-- Reset with every kind of event still to come. -/
def eventful (x : Input) : State := { State.reset with inputs := [x, .engine] }

/-- NOP in flight, the engine's turn next, in either form of `EngineMoves`. -/
def inFlight (w : Word) (l : List Input) : State := { accept State.reset w with inputs := l }

theorem witness_EncodeInvertsDecode : decode 0x3F000022 = .ok (.sm3fin 63) := by decide

theorem witness_LegalityIsTheOpcodeMap :
    decode 0x00000714 = .ok (.ecldsm2 7) ∧ Idle State.reset ∧ decode 0x00000814 = .error .pointRange := by decide

/-- Both ends of each reserved range. -/
theorem witness_ReservedOpcodesAreIllegal :
    ((0x07 ≤ (opOf 0x07).toNat ∧ (opOf 0x07).toNat ≤ 0x0F) ∧ (0x07 ≤ (opOf 0x0F).toNat ∧ (opOf 0x0F).toNat ≤ 0x0F)) ∧
    ((0x15 ≤ (opOf 0x15).toNat ∧ (opOf 0x15).toNat ≤ 0x1F) ∧ (0x15 ≤ (opOf 0x1F).toNat ∧ (opOf 0x1F).toNat ≤ 0x1F)) ∧
    ((0x23 ≤ (opOf 0x23).toNat ∧ (opOf 0x23).toNat ≤ 0x2F) ∧ (0x23 ≤ (opOf 0x2F).toNat ∧ (opOf 0x2F).toNat ≤ 0x2F)) ∧
    (0x33 ≤ (opOf 0x33).toNat ∧ 0x33 ≤ (opOf 0xFF).toNat) ∧ decode 0 = .ok .nop := by decide

theorem witness_AssemblerTakesExactlyTheForms :
    assemble ⟨.ECMUL, [.p 7, .p 0, .v 15]⟩ = .ok (.ecmul 7 0 15) ∧
    (⟨.ECMUL, [.p 7, .p 0, .v 15]⟩ : AsmForm) = disassemble (.ecmul 7 0 15) := by decide

theorem witness_AcceptLatchesTheWord :
    (Running State.reset ∧ State.reset.busy = false) ∧ (Running busyNop ∧ busyNop.busy = true) := by decide

theorem witness_StepRunsTheDecodedCommand :
    (Running (inFlight 0x21 [.engine]) ∧ (inFlight 0x21 [.engine]).pend = true ∧
      EngineMoves (inFlight 0x21 [.engine]) [] ∧ decode (inFlight 0x21 [.engine]).cmdl = .ok .sm3blk) ∧
    (Running (inFlight 0x21 []) ∧ (inFlight 0x21 []).pend = true ∧ EngineMoves (inFlight 0x21 []) [] ∧
      decode (inFlight 0x21 []).cmdl = .ok .sm3blk) := by decide

theorem witness_StepCompletesAnIllegalWord :
    (Running (inFlight 0xFF [.engine]) ∧ (inFlight 0xFF [.engine]).pend = true ∧
      EngineMoves (inFlight 0xFF [.engine]) [] ∧ decode (inFlight 0xFF [.engine]).cmdl = .error .reservedOp) ∧
    (Running (inFlight 0xFF []) ∧ (inFlight 0xFF []).pend = true ∧ EngineMoves (inFlight 0xFF []) [] ∧
      decode (inFlight 0xFF []).cmdl = .error .reservedOp) := by decide

theorem witness_IdleEngineWaits :
    (State.reset.pend = false ∧ EngineMoves State.reset []) ∧
    ((eventful .engine).pend = false ∧ EngineMoves (eventful .engine) [.engine]) := by decide

theorem witness_StepPerformsItsEvent :
    (eventful (.access hostACK)).inputs = .access hostACK :: [.engine] ∧
    (eventful (.rstPin false)).inputs = .rstPin false :: [.engine] ∧
    (eventful (.rstPin true)).inputs = .rstPin true :: [.engine] := by decide

/-- One failing command of each code but 1, which no legal word gives. -/
theorem witness_CommandErrorsArePrecise :
    (nextOf (exec (.mred 0 1 3) State.reset)).map (·.err) = some 2 ∧
    (nextOf (exec (.minv 0 1 3) (withV 3 0 (-1)))).map (·.err) = some 3 ∧
    (nextOf (exec (.sm3fin 0) State.reset)).map (·.err) = some 4 ∧
    (nextOf (exec .sm4dec State.reset)).map (·.err) = some 5 := by decide +kernel

theorem witness_FiniteInputsEndIdle :
    Consistent (inFlight 0x21 [.access hostACK, .engine]) ∧ Consistent (inFlight 0x21 []) ∧
    (inFlight 0x21 []).pend = true := by decide

theorem witness_StepKeepsConsistent :
    Consistent (inFlight 0 [.engine]) ∧ (nextOf (step (inFlight 0 [.engine]))).isSome = true ∧
    Consistent { State.reset with rstN := false, inputs := [.rstPin true] } ∧
    (nextOf (step { State.reset with rstN := false, inputs := [.rstPin true] })).isSome = true := by decide +kernel

/-- Both sides of the three unmapped ranges. -/
theorem witness_RegisterMapIsExact :
    (∀ n ∈ [0x020, 0x0FC, 0x410, 0x47C, 0x500, 0xFFC], n % 4 = 0 ∧ regAt (BitVec.ofNat 12 n) = none) ∧
    (∀ n ∈ [0x01C, 0x100, 0x40C, 0x480, 0x4FC], n % 4 = 0 ∧ (regAt (BitVec.ofNat 12 n)).isSome = true) ∧
    regAt 0x2FC = some (.v 15 7) ∧ (0x2FC#12).toNat = offsetOf (.v 15 7) := by decide +kernel

theorem witness_WindowIsFourKilobytes :
    Config.coreBase + 4096 < Config.coreBase ∨ Config.coreBase + 4096 ≤ Config.coreBase + 4096 := .inr (le_refl _)

/-- A1 to A5, one access of each kind alone. -/
theorem witness_AccessErrorsAreA1ToA5_errors :
    Running State.reset ∧ Running busyNop ∧ IsAccessError busyNop (hostWR 0x3FC 0) ∧
    (∀ x ∈ [hostRD 0x102, ⟨.write, 0x100, 0x7, 0⟩, hostRD 0x020, hostRD 0x0FC, hostRD 0x410, hostRD 0x47C,
        hostRD 0x500, hostWR 0x000 0, hostWR 0x400 0, hostWR 0x40C 0, hostWR 0x480 0, hostWR 0x4FC 0],
      IsAccessError State.reset x) := by decide

/-- Accesses that are no error, and the two ways a set AERR falls. -/
theorem witness_AccessErrorsAreA1ToA5_legal :
    (¬ IsAccessError State.reset (hostWR 0x3FC 0) ∧ State.reset.aerr = false) ∧
    (Running busyNop ∧ ¬ IsAccessError busyNop (hostWR 0x00C 0) ∧ busyNop.aerr = false) ∧
    ((accessError busyNop).aerr = true ∧ (hostAccess (accessError busyNop) (hostWR 0x008 4)).aerr = false) ∧
    ((accessError busyNop).aerr = true ∧ (hostAccess (accessError busyNop) hostSRST).aerr = false) := by decide

theorem witness_ReadsAnswerAndChangeNothing :
    (Running busyNop ∧ (hostRD 0x4FC).kind = .read ∧ (hostRD 0x4FC).off.toNat = offsetOf (.sm4Rk 31)) ∧
    (Running busyNop ∧ (hostRD 0x4FD).kind = .read ∧ regAt (hostRD 0x4FD).off = none) := by decide

/-- No register stands at an offset that is not a multiple of 4. -/
theorem witness_ReadsAnswer_misaligned : ∀ r : Reg, (hostRD 0x4FD).off.toNat ≠ offsetOf r := by
  intro r
  have h : (hostRD 0x4FD).off.toNat = 0x4FD := rfl
  rw [h]
  cases r with
  | curve c j => cases c <;> simp only [offsetOf, curveBase] <;> omega
  | id | cmd | status | ctrl | pinf | sm3Ctl | sm3CntHi | sm3CntLo => decide
  | v i j => simp only [offsetOf]; omega
  | sm3V i | sm3Buf i | sm4Key i | sm4Din i | sm4Dout i | sm4Rk i => simp only [offsetOf]; omega

theorem witness_StatusAndCtrlWrites :
    Running busyNop ∧ Running State.reset ∧ (0xFFFFFFFD : Word).getLsbD 1 = false := by decide

theorem witness_IdleWritesReachOneRegister :
    Idle State.reset ∧ (hostWR 0x2FC 1).kind = .write ∧ (hostWR 0x2FC 1).strb = 0xF ∧
    (isData (.v 15 7) = true ∧ (hostWR 0x2FC 1).off.toNat = offsetOf (.v 15 7) ∧ Reg.v 15 6 ≠ .v 15 7) ∧
    (isData .sm3Ctl = true ∧ (hostWR 0x014 1).off.toNat = offsetOf .sm3Ctl ∧
      ¬ (Reg.status = .status ∧ Reg.pinf = .sm3Ctl)) ∧
    (isData (.sm4Din 3) = true ∧ (hostWR 0x3FC 1).off.toNat = offsetOf (.sm4Din 3)) := by decide

theorem witness_BusyProtectsTheCommand :
    Running busyNop ∧ busyNop.busy = true ∧
    ((hostWR 0x004 0).kind = .write ∧ (hostWR 0x004 0).off.toNat ≠ 0x008 ∧ (hostWR 0x004 0).off.toNat ≠ 0x00C) ∧
    ¬ ((hostWR 0x00C 1).kind = .write ∧ (hostWR 0x00C 1).off.toNat = 0x00C ∧ (hostWR 0x00C 1).strb = 0xF ∧
      (hostWR 0x00C 1).data.getLsbD 1 = true) := by decide

theorem witness_WideLoadsRoundTrip : Idle State.reset := by decide

theorem witness_ResetClearsEverything : Running busyNop ∧ (2 : Word).getLsbD 1 = true := by decide

theorem witness_AccessesInResetAreNotTaken :
    (setRstPin busyNop false).rstN = false ∧ (hostRD 0x000).kind = .read ∧ (hostWR 0x004 0).kind = .write := by decide

theorem witness_IrqRisesAndFalls :
    (nextOf (exec .nop busyNop)).isSome = true ∧ (Running busyNop ∧ busyNop.pend = true) ∧
    (Running (inFlight 0xFF []) ∧ (inFlight 0xFF []).pend = true ∧
      decode (inFlight 0xFF []).cmdl = .error .reservedOp) ∧
    (Running State.reset ∧ State.reset.busy = false) ∧
    (2 : Word).getLsbD 1 = true ∧ (0 : Word).getLsbD 0 = false ∧
    ((1 : Word).getLsbD 0 = true ∧ (1 : Word).getLsbD 1 = false) ∧
    (Running busyNop ∧ IsAccessError busyNop (hostWR 0x100 0)) := by decide

theorem witness_OnlyEcchkWritesChk :
    (∀ k, Instr.nop ≠ .ecchk k) ∧ (nextOf (exec .nop State.reset)).isSome = true := by decide

/-- A step of each case: neither, both resets, and SM4KEY completing. -/
theorem witness_RoundKeysChangeOnlyBySm4key :
    (nextOf (step (inFlight 0 []))).isSome = true ∧ (nextOf (step (eventful (.rstPin false)))).isSome = true ∧
    (nextOf (step (eventful (.access hostSRST)))).isSome = true ∧
    (nextOf (step (inFlight 0x30 []))).isSome = true := by decide

theorem witness_NopCompletes :
    (opOf 0x00000100 = 0 ∧ (0x00000100 : Word) ≠ 0) ∧ (opOf 0x80000000 = 0 ∧ (0x80000000 : Word) ≠ 0) ∧
    (Running (inFlight 0x100 []) ∧ (inFlight 0x100 []).pend = true ∧ (inFlight 0x100 []).cmdl = 0x00000100) := by decide

/-- MADD, MSUB, MMUL, MRED and MEXP: a zero modulus and a modulus that is not. -/
theorem witness_modulus : State.reset.v[(3 : VReg)] = 0 ∧ (withV 0 0 1).v[(3 : VReg)] ≠ 0 := by decide

theorem witness_MinvWritesTheInverse :
    State.reset.v[(3 : VReg)] = 0 ∧
    ((withV 6 0 9).v[(3 : VReg)] ≠ 0 ∧
      Nat.gcd (((withV 6 0 9).v[(1 : VReg)]).toNat % ((withV 6 0 9).v[(3 : VReg)]).toNat)
        ((withV 6 0 9).v[(3 : VReg)]).toNat ≠ 1) ∧
    ((withV 0 0 1).v[(3 : VReg)] ≠ 0 ∧
      Nat.gcd (((withV 0 0 1).v[(1 : VReg)]).toNat % ((withV 0 0 1).v[(3 : VReg)]).toNat)
        ((withV 0 0 1).v[(3 : VReg)]).toNat = 1) := by decide +kernel

/-- b = 5 and c = 12 modulo 17; 0 in V0; 4 prime to 497; 1 + 2 = 3 as exponents. -/
theorem witness_ArithmeticLawsOfR137 :
    ((withV 5 12 17).v[(3 : VReg)] ≠ 0 ∧ ((withV 5 12 17).v[(2 : VReg)]).toNat =
      ((withV 5 12 17).v[(3 : VReg)]).toNat -
        ((withV 5 12 17).v[(1 : VReg)]).toNat % ((withV 5 12 17).v[(3 : VReg)]).toNat) ∧
    (withV 5 12 17).v[(0 : VReg)] = 0 ∧
    ((0 : VReg) ≠ 1 ∧ (0 : VReg) ≠ 3 ∧ (withV 4 0 497).v[(3 : VReg)] ≠ 0 ∧
      Nat.gcd ((withV 4 0 497).v[(1 : VReg)]).toNat ((withV 4 0 497).v[(3 : VReg)]).toNat = 1) ∧
    ((withV 1 2 3).v[(3 : VReg)] ≠ 0 ∧ ((withV 1 2 3).v[(3 : VReg)]).toNat =
      ((withV 1 2 3).v[(1 : VReg)]).toNat + ((withV 1 2 3).v[(2 : VReg)]).toNat) := by decide +kernel

theorem witness_WritePointReadsBack :
    ((Point.inf = .inf) ∧ (6 : Nat) ≠ (7 : PReg).val) ∧ ((13 : VReg) ≠ xReg 7 ∧ (13 : VReg) ≠ yReg 7) := by decide

/-- E(17, 2, 2) is a valid domain, whatever its points. -/
theorem toy_domain (x0 y0 x1 y1 k : Big) : VD (toy x0 y0 x1 y1 k) := by
  refine ⟨?_, ?_, ?_, ?_, ?_⟩
  · show Nat.Prime (17#256).toNat
    norm_num
  all_goals (simp only [p, a, b, toy]; decide)

/-- Points of every case of R153: a chord, a tangent, opposite points, and O. -/
theorem witness_EcaddWritesTheSum :
    (VD (toy 6 3 5 1 0) ∧ VP (toy 6 3 5 1 0) 0 ∧ VP (toy 6 3 5 1 0) 1) ∧
    (VD (toy 10 6 10 6 0) ∧ VP (toy 10 6 10 6 0) 0 ∧ VP (toy 10 6 10 6 0) 1) ∧
    (VD (toy 5 1 5 16 0) ∧ VP (toy 5 1 5 16 0) 0 ∧ VP (toy 5 1 5 16 0) 1) ∧
    (VD (toy 5 1 5 16 0) ∧ VP (toy 5 1 5 16 0) 2 ∧ VP (toy 5 1 5 16 0) 1) := by
  refine ⟨⟨toy_domain _ _ _ _ _, ?_, ?_⟩, ⟨toy_domain _ _ _ _ _, ?_, ?_⟩, ⟨toy_domain _ _ _ _ _, ?_, ?_⟩,
    ⟨toy_domain _ _ _ _ _, ?_, ?_⟩⟩ <;> decide +kernel

theorem witness_EcdblWritesTheDouble :
    (VD (toy 5 1 0 0 0) ∧ VP (toy 5 1 0 0 0) 0) ∧ (VD (toy 5 1 0 0 0) ∧ VP (toy 5 1 0 0 0) 2) := by
  refine ⟨⟨toy_domain _ _ _ _ _, ?_⟩, ⟨toy_domain _ _ _ _ _, ?_⟩⟩ <;> decide +kernel

theorem witness_EcmulRunsTheReference : VD (toy 5 1 0 0 7) ∧ VP (toy 5 1 0 0 7) 0 :=
  ⟨toy_domain _ _ _ _ _, by decide +kernel⟩

theorem witness_PointResultsLieOnTheCurve :
    (17 : Nat) < 2 ^ 256 ∧ validDomainOf 17 2 2 = true ∧ validPointOf 17 2 2 (.affine 6 3) = true ∧
    validPointOf 17 2 2 (.affine 5 1) = true := by decide +kernel

theorem witness_DoubleAndAddIsTheKFoldSum :
    (17 : Nat) < 2 ^ 256 ∧ (2 : Nat) ^ 256 - 1 < 2 ^ 256 ∧ validDomainOf 17 2 2 = true ∧
    validPointOf 17 2 2 (.affine 5 1) = true := by decide +kernel

theorem witness_EcLawsOfR163 :
    VD (toy 5 1 0 0 0) ∧ VP (toy 5 1 0 0 0) 0 ∧ (toy 5 1 0 0 0).v[(15 : VReg)] = 0 :=
  ⟨toy_domain _ _ _ _ _, by decide +kernel, by decide +kernel⟩

/-- ECLDSM2 p0, then n in V9, the y register of P4 (95_test_vectors.md P4). -/
theorem witness_EcLawsOfR163_order :
    (nextOf (exec (.ecldsm2 0) State.reset)).map (fun t =>
      (decide ((t.setV 9 t.cn).cp = t.cp ∧ (t.setV 9 t.cn).ca = t.ca ∧ (t.setV 9 t.cn).cb = t.cb ∧
        readPoint (t.setV 9 t.cn) 0 = readPoint t 0 ∧ (t.setV 9 t.cn).v[(9 : VReg)] = t.cn))) = some true := by
  decide +kernel

/-- ECADD, ECDBL, ECMUL on invalid inputs: no domain at reset; and a valid domain with a point off the curve. -/
theorem witness_invalidInputs :
    ¬ (VD State.reset ∧ VP State.reset 0 ∧ VP State.reset 1) ∧ ¬ (VD State.reset ∧ VP State.reset 0) ∧
    ¬ (VD (toy 5 2 5 1 0) ∧ VP (toy 5 2 5 1 0) 0 ∧ VP (toy 5 2 5 1 0) 1) ∧
    ¬ (VD (toy 5 2 5 1 0) ∧ VP (toy 5 2 5 1 0) 0) := by
  refine ⟨fun h => absurd h.1.2.1 (by decide), fun h => absurd h.1.2.1 (by decide), fun h => absurd h.2.1 ?_,
    fun h => absurd h.2 ?_⟩ <;> decide +kernel

theorem witness_EcchkWritesTheThreeBits : State.reset.cp = 0 ∧ (toy 5 1 0 0 0).cp ≠ 0 := by decide

/-- SM3BLK and SM3FIN: ACTIVE clear and set, and a length on each side of the two paddings. -/
theorem witness_sm3Active :
    State.reset.sm3Active = false ∧ (startHash State.reset).sm3Active = true ∧ (55 : Len).val ≤ 55 ∧
    ¬ (56 : Len).val ≤ 55 := by decide

/-- Both ends of each range of rounds, and the lowest and highest bit. -/
theorem witness_CompressionFollowsR186 :
    ((0 : Nat) < 32 ∧ (31 : Nat) < 32) ∧ ((0 : Nat) ≤ 15 ∧ (15 : Nat) ≤ 15) ∧
    (((16 : Nat) ≤ 16 ∧ (16 : Nat) ≤ 63) ∧ ((16 : Nat) ≤ 63 ∧ (63 : Nat) ≤ 63)) := by decide

/-- Two buffers that differ after the third byte only. -/
theorem witness_Sm3ResultsDependOnTheContext :
    (bufBytes ((Vector.replicate 16 0).set 0 0x61626300)).take (3 : Len).val =
      (bufBytes ((Vector.replicate 16 0).set 0 0x616263FF)).take (3 : Len).val ∧
    (startHash State.reset).sm3V = (startHash busyNop).sm3V ∧
    (startHash State.reset).sm3Cnt = (startHash busyNop).sm3Cnt ∧
    (startHash State.reset).sm3Active = (startHash busyNop).sm3Active ∧
    (startHash State.reset).sm3Buf = (startHash busyNop).sm3Buf := by decide

/-- SM4ENC and SM4DEC: KEYVALID clear and set. -/
theorem witness_sm4KeyValid : State.reset.keyValid = false ∧ { State.reset with keyValid := true }.keyValid = true := by
  decide

/-- A state after SM4KEY, and one between the two commands with the block just written. -/
theorem witness_Sm4RoundTrips (x : Vector Word 4) :
    (expandKey State.reset).keyValid = true ∧
    { expandKey State.reset with sm4Din := x }.sm4Rk = (expandKey State.reset).sm4Rk ∧
    { expandKey State.reset with sm4Din := x }.keyValid = true ∧
    { expandKey State.reset with sm4Din := x }.sm4Din = x := by simp only [expandKey, and_self]

theorem witness_Sm4RoundFunctions : sbox 0xFF = sbox 0xFF ∧ sbox 0xFF = 0x48 := by decide

end Sys2Proof.Tests
end

/-! PROOF. The register window in the host's address space (00_scope.md R7, 20_memory.md R61). -/

namespace Sys2Proof.Proofs.Window

open Sys2Proof.Machine

@[simp] theorem coreBase_mod_4096 : Config.coreBase % 4096 = 0 := Nat.mul_mod_right 4096 Config.corePage

/-- `windowOffset` undoes the host's CORE_BASE + o: 12 bits never reach past the window. -/
@[simp] theorem windowOffset_coreBase_add (o : BitVec 12) : windowOffset (Config.coreBase + o.toNat) = some o := by
  have inside : Config.coreBase ≤ Config.coreBase + o.toNat ∧
      Config.coreBase + o.toNat < Config.coreBase + 4096 :=
    ⟨Nat.le_add_right .., Nat.add_lt_add_left o.isLt _⟩
  rw [windowOffset, if_pos inside, Nat.add_sub_cancel_left, BitVec.ofNat_toNat, BitVec.setWidth_eq]

theorem windowOffset_eq_none_iff {x : Nat} :
    windowOffset x = none ↔ x < Config.coreBase ∨ Config.coreBase + 4096 ≤ x := by
  rw [windowOffset, ite_eq_right_iff]
  simp only [reduceCtorEq, imp_false]
  omega

/-- Settles O18: the aligned base, the offset of an address inside, and none outside. -/
theorem windowIsFourKilobytes : Obligations.WindowIsFourKilobytes :=
  ⟨coreBase_mod_4096, windowOffset_coreBase_add, fun _ => windowOffset_eq_none_iff.mpr⟩

end Sys2Proof.Proofs.Window

/-! PROOF. What the completion of a command leaves and writes (40_execution.md R111 to R113). -/

namespace Sys2Proof.Proofs.Commands

open Sys2Proof.Machine Sys2Proof.Safety Sys2Proof.Statements

/-! ### Every completion -/

/-- The state `t` after any completion from `s` (R111): no command in flight, DONE, a defined code, and as it was what
no command writes. -/
structure Completed (s t : State) : Prop extends EngineKeeps s t where
  busy : t.busy = false
  done : t.done = true
  pend : t.pend = false
  err : t.err.toNat ≤ 5

theorem completed_finish {s t : State} (keeps : EngineKeeps s t) {code : BitVec 4} (defined : code.toNat ≤ 5) :
    Completed s (finish t code) :=
  { keeps with busy := rfl, done := rfl, pend := rfl, err := defined }

theorem engineKeeps_useDraw (s : State) : EngineKeeps s (useDraw s) := ⟨rfl, rfl, rfl, rfl, rfl, rfl, rfl, rfl, rfl⟩

theorem completion_completed {s : State} {o : Host.Outcome State Fault Refusal} (h : Completion s o) :
    ∃ t, o = .next t ∧ Completed s t := by
  cases h with
  | success t keeps => exact ⟨_, rfl, completed_finish keeps (Nat.zero_le 5)⟩
  | failure e => exact ⟨_, rfl, completed_finish (engineKeeps_refl s) (errValue_le e)⟩
  | drawnFailure e => exact ⟨_, rfl, completed_finish (engineKeeps_useDraw s) (errValue_le e)⟩

theorem completed_of_exec {i : Instr} {s t : State} (h : exec i s = .next t) : Completed s t := by
  obtain ⟨u, hu, completed⟩ := completion_completed (exec_completion i s)
  obtain rfl : u = t := Host.Outcome.next.inj (hu.symm.trans h)
  exact completed

/-- Settles O12: one of the three ways to complete. -/
theorem everyCommandCompletes : Obligations.EveryCommandCompletes := by
  intro i s
  obtain ⟨t, ht, c⟩ := completion_completed (exec_completion i s)
  exact ⟨t, ht, c.busy, c.done, c.pend, c.err, c.cmdl, c.aerr, c.ie, c.rstN, c.inputs, c.reply, c.sm3Buf, c.sm4Key,
    c.sm4Din⟩

/-! ### The writes of each command -/

/-- What a command can write before its commit, by kind of result. Only ECCHK writes CHK (42_ec_point.md R159), only
SM4KEY the round keys (10_state.md R34), and the output block is written only under a key (R33). -/
inductive Writes (s : State) : Instr → State → Prop where
  | nothing (i : Instr) : Writes s i s
  | drawTaken (i : Instr) : Writes s i (useDraw s)
  | register (i : Instr) (rd : VReg) (x : Big) : Writes s i (s.setV rd x)
  | point (i : Instr) (pd : PReg) (r : Point) : Writes s i (writePoint s pd r)
  | drawnPoint (i : Instr) (pd : PReg) (r : Point) : Writes s i (writePoint (useDraw s) pd r)
  | check (k : PReg) (bits : BitVec 3) : Writes s (.ecchk k) { s with chk := bits }
  | curve (i : Instr) (pd : PReg) (r : Point) : Writes s i (writePoint (loadSm2Curve s) pd r)
  | hash (i : Instr) (hv : Vector Word 8) (count : BitVec 64) (active : Bool) :
      Writes s i { s with sm3V := hv, sm3Cnt := count, sm3Active := active }
  | roundKeys : Writes s .sm4key (expandKey s)
  | block (i : Instr) (key : s.keyValid = true) (x : Vector Word 4) : Writes s i { s with sm4Dout := x }

/-- `o` commits some writes of the command `i`. -/
def Commits (s : State) (i : Instr) (o : Host.Outcome State Fault Refusal) : Prop :=
  ∃ (u : State) (code : BitVec 4), o = .next (finish u code) ∧ Writes s i u

theorem commits_error (s : State) (i : Instr) (e : CmdError) : Commits s i (.next (commit s (.error e))) :=
  ⟨s, errValue e, rfl, .nothing i⟩

theorem commits_ok {s u : State} {i : Instr} (h : Writes s i u) : Commits s i (.next (commit s (.ok u))) :=
  ⟨u, 0, rfl, h⟩

theorem commits_storeV (s : State) (i : Instr) (rd : VReg) (r : Except CmdError Big) :
    Commits s i (.next (commit s (storeV s rd r))) := by
  cases r with
  | error e => exact commits_error s i e
  | ok x => exact commits_ok (.register i rd x)

theorem commits_completePoint (s : State) (i : Instr) (valid : Bool) (pd : PReg) (r : Point) :
    Commits s i (.next (completePoint s valid pd r)) := by
  cases valid with
  | true => exact commits_ok (.point i pd r)
  | false =>
    rw [completePoint, if_neg Bool.false_ne_true]
    cases Config.ecDraw s.draws with
    | success q => exact ⟨_, 0, rfl, .drawnPoint i pd q⟩
    | modZero => exact ⟨_, _, rfl, .drawTaken i⟩
    | notInvertible => exact ⟨_, _, rfl, .drawTaken i⟩

theorem commits_whenActive (s : State) (i : Instr) {t : State} (h : Writes s i t) :
    Commits s i (.next (commit s (whenActive s t))) := by
  unfold whenActive
  split
  · exact commits_ok h
  · exact commits_error s i .sm3Seq

theorem commits_cryptBlock (s : State) (i : Instr) (rk : List Word) :
    Commits s i (.next (commit s (cryptBlock s rk))) := by
  unfold cryptBlock
  split
  · exact commits_ok (.block i ‹_› _)
  · exact commits_error s i .sm4NoKey

/-- Every command commits writes of its own kind. -/
theorem exec_commits (i : Instr) (s : State) : Commits s i (exec i s) := by
  cases i with
  | nop => exact commits_ok (.nothing _)
  | madd | msub | mmul | mred | minv | mexp => exact commits_storeV s _ _ _
  | ecadd | ecdbl | ecmul => exact commits_completePoint s _ _ _ _
  | ecchk k =>
    simp only [exec, execEcchk]
    split
    · exact commits_error s _ .modZero
    · exact commits_ok (.check k _)
  | ecldsm2 pd => exact commits_ok (.curve _ pd _)
  | sm3init => exact commits_ok (.hash _ _ _ _)
  | sm3blk => exact commits_whenActive s _ (.hash _ _ _ s.sm3Active)
  | sm3fin len => exact commits_whenActive s _ (.hash _ _ _ _)
  | sm4key => exact commits_ok .roundKeys
  | sm4enc | sm4dec => exact commits_cryptBlock s _ _

theorem writes_of_exec {i : Instr} {s t : State} (h : exec i s = .next t) :
    ∃ (u : State) (code : BitVec 4), t = finish u code ∧ Writes s i u := by
  obtain ⟨u, code, hu, writes⟩ := exec_commits i s
  exact ⟨u, code, Host.Outcome.next.inj (h.symm.trans hu), writes⟩

/-! ### What the writes leave unchanged -/

theorem Writes.chk_eq {s u : State} {i : Instr} (h : Writes s i u) (hi : ∀ k, i ≠ .ecchk k) : u.chk = s.chk := by
  cases h with
  | check k bits => exact absurd rfl (hi k)
  | nothing | drawTaken | register | point | drawnPoint | curve | hash | block => rfl
  | roundKeys => exact expandKey_chk s

theorem Writes.sm4Rk_keyValid_eq {s u : State} {i : Instr} (h : Writes s i u) (hi : i ≠ .sm4key) :
    u.sm4Rk = s.sm4Rk ∧ u.keyValid = s.keyValid := by
  cases h with
  | roundKeys => exact absurd rfl hi
  | nothing | drawTaken | register | point | drawnPoint | check | curve | hash | block => exact ⟨rfl, rfl⟩

/-- Only SM4ENC and SM4DEC write the output block, and both need a key. -/
theorem Writes.sm4Dout_eq {s u : State} {i : Instr} (h : Writes s i u) (hk : s.keyValid = false) :
    u.sm4Dout = s.sm4Dout := by
  cases h with
  | block _ key => simp [hk] at key
  | nothing | drawTaken | register | point | drawnPoint | check | curve | hash => rfl
  | roundKeys => exact expandKey_sm4Dout s

theorem exec_keeps_roundKeys {i : Instr} {s t : State} (h : exec i s = .next t) (hi : i ≠ .sm4key) :
    t.sm4Rk = s.sm4Rk ∧ t.keyValid = s.keyValid := by
  obtain ⟨u, code, rfl, writes⟩ := writes_of_exec h
  exact writes.sm4Rk_keyValid_eq hi

theorem sm4Dout_of_exec {i : Instr} {s t : State} (h : exec i s = .next t) (hk : s.keyValid = false) :
    t.sm4Dout = s.sm4Dout := by
  obtain ⟨u, code, rfl, writes⟩ := writes_of_exec h
  exact writes.sm4Dout_eq hk

theorem keyValid_of_exec_sm4key {s t : State} (h : exec .sm4key s = .next t) : t.keyValid = true := by
  obtain rfl : finish (expandKey s) 0 = t := Host.Outcome.next.inj h
  exact expandKey_keyValid s

/-- Settles O32: a failing command writes nothing, and of the results only ECCHK's is CHK. -/
theorem onlyEcchkWritesChk : Obligations.OnlyEcchkWritesChk := by
  intro i s t hi h
  obtain ⟨u, code, rfl, writes⟩ := writes_of_exec h
  exact writes.chk_eq hi

/-! ### One step -/

/-- The engine's turn passes, or is the `exec` of a legal latched word or the completion of an illegal one. -/
theorem engineTurn_next {s t : State} (h : engineTurn s = .next t) :
    (engineReady s = false ∧ t = s) ∨
    (Running s ∧ s.pend = true ∧
      ((∃ i, decode s.cmdl = .ok i ∧ exec i s = .next t) ∨
        ∃ e, decode s.cmdl = .error e ∧ t = completeIllegal s)) := by
  unfold engineTurn at h
  split at h
  · have ready : s.rstN = true ∧ s.pend = true := by simpa [engineReady] using ‹engineReady s = true›
    refine .inr ⟨ready.1, ready.2, ?_⟩
    split at h
    · exact .inl ⟨_, ‹_›, h⟩
    · exact .inr ⟨_, ‹_›, (Host.Outcome.next.inj h).symm⟩
  · exact .inl ⟨Bool.eq_false_iff.mpr ‹_›, (Host.Outcome.next.inj h).symm⟩

/-- Everything a step can do: the engine's turn, a host access, or a level of the pin. -/
theorem step_next {s t : State} (h : step s = .next t) :
    (∃ rest, EngineMoves s rest ∧ engineTurn (takeInput s rest) = .next t) ∨
    (∃ x rest, s.inputs = .access x :: rest ∧ t = hostAccess (takeInput s rest) x) ∨
    (∃ level rest, s.inputs = .rstPin level :: rest ∧ t = setRstPin (takeInput s rest) level) := by
  unfold step at h
  split at h
  · exact .inl ⟨[], .inr ⟨‹_›, rfl⟩, h⟩
  · exact .inl ⟨_, .inl ‹_›, h⟩
  · exact .inr (.inl ⟨_, _, ‹_›, (Host.Outcome.next.inj h).symm⟩)
  · exact .inr (.inr ⟨_, _, ‹_›, (Host.Outcome.next.inj h).symm⟩)

end Sys2Proof.Proofs.Commands

/-! PROOF. The register map in both directions (20_memory.md R62, R67) and a host access as the read or write of one
register (R63 to R66). -/

namespace Sys2Proof.Proofs.Port

open Sys2Proof.Machine Sys2Proof.Safety Sys2Proof.Statements

/-! ### The register map (R62) -/

theorem wordIndex_inside {base n : Nat} (k : Fin n) : wordIndex base n (base + 4 * k.val) = some k := by
  rw [wordIndex, dif_pos (by omega)]
  exact congrArg some (Fin.ext (by simp))

theorem wordIndex_outside {base n off : Nat} (h : off < base ∨ base + 4 * n ≤ off) : wordIndex base n off = none :=
  dif_neg (by omega)

/-- An aligned offset finds word k of an aligned run only at that word's place. -/
theorem wordIndex_eq_some {base n off : Nat} {k : Fin n} (hoff : off % 4 = 0) (hbase : base % 4 = 0)
    (h : wordIndex base n off = some k) : off = base + 4 * k.val := by
  obtain ⟨hin, hk⟩ := Option.dite_none_right_eq_some.mp h
  obtain rfl := Option.some.inj hk
  simp only
  omega

theorem offsetOf_mod_four (r : Reg) : offsetOf r % 4 = 0 := by
  cases r with
  | curve c j => cases c <;> simp only [offsetOf, curveBase] <;> omega
  | id | cmd | status | ctrl | pinf | sm3Ctl | sm3CntHi | sm3CntLo => rfl
  | v | sm3V | sm3Buf | sm4Key | sm4Din | sm4Dout | sm4Rk => simp only [offsetOf]; omega

/-- The first eight registers aside, the map is the list of its runs. -/
theorem regAt_run {o : BitVec 12} (h : 0x020 ≤ o.toNat) (h4 : o.toNat % 4 = 0) :
    regAt o = (vWordAt o.toNat
      <|> (wordIndex 0x300 8 o.toNat).map (.curve .cp)
      <|> (wordIndex 0x320 8 o.toNat).map (.curve .ca)
      <|> (wordIndex 0x340 8 o.toNat).map (.curve .cb)
      <|> (wordIndex 0x360 8 o.toNat).map (.curve .cn)
      <|> (wordIndex 0x380 8 o.toNat).map .sm3V
      <|> (wordIndex 0x3A0 16 o.toNat).map .sm3Buf
      <|> (wordIndex 0x3E0 4 o.toNat).map .sm4Key
      <|> (wordIndex 0x3F0 4 o.toNat).map .sm4Din
      <|> (wordIndex 0x400 4 o.toNat).map .sm4Dout
      <|> (wordIndex 0x480 32 o.toNat).map .sm4Rk) := by
  unfold regAt
  split
  case h_9 => exact if_neg (by simp [h4])
  all_goals omega

theorem vWordAt_inside (i : VReg) (j : Fin 8) : vWordAt (0x100 + 0x20 * i.val + 4 * j.val) = some (.v i j) := by
  have hk : 0x100 + 0x20 * i.val + 4 * j.val = 0x100 + 4 * (⟨8 * i.val + j.val, by omega⟩ : Fin 128).val := by
    simp only
    omega
  rw [vWordAt, hk, wordIndex_inside]
  simp only [Option.map_some, Option.some.injEq, Reg.v.injEq, Fin.ext_iff]
  omega

theorem vWordAt_outside {off : Nat} (h : off < 0x100 ∨ 0x300 ≤ off) : vWordAt off = none := by
  rw [vWordAt, wordIndex_outside (by omega), Option.map_none]

theorem regAt_of_offsetOf {o : BitVec 12} {r : Reg} (h : o.toNat = offsetOf r) : regAt o = some r := by
  have h4 : o.toNat % 4 = 0 := h ▸ offsetOf_mod_four r
  cases r with
  | id | cmd | status | ctrl | pinf | sm3Ctl | sm3CntHi | sm3CntLo => simp only [regAt, h, offsetOf]
  | v i j =>
    rw [regAt_run (by simp only [h, offsetOf]; omega) h4, h, offsetOf, vWordAt_inside]
    rfl
  | curve c j =>
    cases c <;> rw [regAt_run (by simp only [h, offsetOf, curveBase]; omega) h4, h] <;>
      simp (disch := omega) [offsetOf, curveBase, vWordAt_outside, wordIndex_outside, wordIndex_inside]
  | sm3V | sm3Buf | sm4Key | sm4Din | sm4Dout | sm4Rk =>
    rw [regAt_run (by simp only [h, offsetOf]; omega) h4, h]
    simp (disch := omega) [offsetOf, vWordAt_outside, wordIndex_outside, wordIndex_inside]

/-- A register found in a run stands at its place there. -/
theorem offsetOf_of_mem_run {base n off : Nat} {mk : Fin n → Reg} {r : Reg} (hoff : off % 4 = 0)
    (hbase : base % 4 = 0) (hmk : ∀ k, offsetOf (mk k) = base + 4 * k.val)
    (h : (wordIndex base n off).map mk = some r) : off = offsetOf r := by
  obtain ⟨k, hk, rfl⟩ := Option.map_eq_some_iff.mp h
  rw [hmk, wordIndex_eq_some hoff hbase hk]

theorem offsetOf_of_vWordAt {off : Nat} {r : Reg} (hoff : off % 4 = 0) (h : vWordAt off = some r) :
    off = offsetOf r :=
  offsetOf_of_mem_run hoff (by rfl) (fun k => by simp only [offsetOf]; omega) h

theorem offsetOf_of_regAt {o : BitVec 12} {r : Reg} (h : regAt o = some r) : o.toNat = offsetOf r := by
  unfold regAt at h
  split at h
  case h_9 =>
    obtain ⟨h4, hrun⟩ := Option.ite_none_left_eq_some.mp h
    replace h4 := not_not.mp h4
    simp only [Option.orElse_eq_some] at hrun
    rcases hrun with h | ⟨-, h | ⟨-, h | ⟨-, h | ⟨-, h | ⟨-, h | ⟨-, h | ⟨-, h | ⟨-, h | ⟨-, h | ⟨-, h⟩⟩⟩⟩⟩⟩⟩⟩⟩⟩
    · exact offsetOf_of_vWordAt h4 h
    all_goals exact offsetOf_of_mem_run h4 (by rfl) (fun _ => rfl) h
  all_goals
    obtain rfl := Option.some.inj h
    assumption

/-- The register map is exact (R62). -/
theorem regAt_eq_some_iff {o : BitVec 12} {r : Reg} : regAt o = some r ↔ o.toNat = offsetOf r :=
  ⟨offsetOf_of_regAt, regAt_of_offsetOf⟩

/-! ### Accesses (R63 to R66) -/

theorem aligned_iff {off : BitVec 12} : aligned off = true ↔ off.toNat % 4 = 0 := by
  simp [aligned, ← BitVec.toNat_inj]

theorem readTarget_eq_some_iff {x : Access} {r : Reg} : readTarget x = some r ↔ x.off.toNat = offsetOf r := by
  rw [readTarget, Option.ite_none_right_eq_some, aligned_iff, regAt_eq_some_iff, and_iff_right_iff_imp]
  exact fun h => h ▸ offsetOf_mod_four r

theorem writeTarget_eq_some_iff {x : Access} {r : Reg} :
    writeTarget x = some r ↔ x.strb = 0xF ∧ x.off.toNat = offsetOf r := by
  rw [writeTarget, Option.ite_none_right_eq_some, aligned_iff, regAt_eq_some_iff, and_assoc, and_iff_right_iff_imp]
  exact fun h => h.2 ▸ offsetOf_mod_four r

theorem hostAccess_read {s : State} {x : Access} {r : Reg} (hr : Running s) (hk : x.kind = .read)
    (ho : x.off.toNat = offsetOf r) : hostAccess s x = { s with reply := some (readReg s r) } := by
  simp [hostAccess, hr, hk, hostRead, readTarget_eq_some_iff.mpr ho]

theorem hostAccess_read_unmapped {s : State} {x : Access} (hr : Running s) (hk : x.kind = .read)
    (ho : ∀ r, x.off.toNat ≠ offsetOf r) : hostAccess s x = { s with aerr := true, reply := some 0 } := by
  have unmapped : readTarget x = none :=
    Option.eq_none_iff_forall_ne_some.mpr fun r h => ho r (readTarget_eq_some_iff.mp h)
  simp [hostAccess, hr, hk, hostRead, unmapped, accessError]

theorem hostAccess_write {s : State} {x : Access} {r : Reg} (hr : Running s) (hk : x.kind = .write)
    (hs : x.strb = 0xF) (ho : x.off.toNat = offsetOf r) : hostAccess s x = writeReg s r x.data := by
  simp [hostAccess, hr, hk, hostWrite, writeTarget_eq_some_iff.mpr ⟨hs, ho⟩]

theorem hostAccess_hostWR {s : State} {o : BitVec 12} {r : Reg} (hr : Running s) (ho : o.toNat = offsetOf r)
    (w : Word) : hostAccess s (hostWR o w) = writeReg s r w :=
  hostAccess_write (x := hostWR o w) hr rfl rfl ho

/-- A write in a running machine is an access error or writes one register. -/
theorem hostAccess_write_cases {s : State} {x : Access} (hr : Running s) (hk : x.kind = .write) :
    hostAccess s x = accessError s ∨
    ∃ r, x.strb = 0xF ∧ x.off.toNat = offsetOf r ∧ hostAccess s x = writeReg s r x.data := by
  cases h : writeTarget x with
  | none => exact .inl (by simp [hostAccess, hr, hk, hostWrite, h])
  | some r =>
    obtain ⟨hs, ho⟩ := writeTarget_eq_some_iff.mp h
    exact .inr ⟨r, hs, ho, hostAccess_write hr hk hs ho⟩

theorem hostAccess_read_cases {s : State} {x : Access} (hr : Running s) (hk : x.kind = .read) :
    (∃ y, hostAccess s x = { s with reply := some y }) ∨ hostAccess s x = { accessError s with reply := some 0 } := by
  cases h : readTarget x with
  | none => exact .inr (by simp [hostAccess, hr, hk, hostRead, h])
  | some r => exact .inl ⟨_, hostAccess_read hr hk (readTarget_eq_some_iff.mp h)⟩

/-- A CTRL read shows SRST as 0 (10_state.md R30). -/
theorem srst_reads_zero (s : State) : (readReg s .ctrl).getLsbD 1 = false := by
  rw [readReg, ctrlWord, BitVec.getLsbD_append]
  rfl

/-- Settles O20: the register map in both directions, then R64's two answers. -/
theorem readsAnswerAndChangeNothing : Obligations.ReadsAnswerAndChangeNothing :=
  ⟨fun _ _ _ hr hk ho => hostAccess_read hr hk ho, fun _ _ hr hk ho => hostAccess_read_unmapped hr hk ho,
    fun _ => ⟨rfl, rfl, srst_reads_zero _⟩⟩

/-- Settles O22: STATUS and CTRL are written busy or idle. -/
theorem statusAndCtrlWrites : Obligations.StatusAndCtrlWrites := by
  intro s w hr
  constructor
  · rw [hostAccess_hostWR hr (r := .status) rfl, writeReg, writeStatus]
    cases w.getLsbD 1 <;> cases w.getLsbD 2 <;> simp
  · intro h1
    rw [hostAccess_hostWR hr (r := .ctrl) rfl, writeReg, writeCtrl, h1, if_neg Bool.false_ne_true]

/-! ### Access errors (60_exceptions.md R242) -/

/-- A write to a mapped register that R242 names an access error: a read-only register, or any but STATUS and CTRL
while BUSY. -/
theorem writeReg_of_isAccessError {s : State} {x : Access} {r : Reg} (h : IsAccessError s x) (hs : x.strb = 0xF)
    (ho : x.off.toNat = offsetOf r) (w : Word) : writeReg s r w = accessError s := by
  have h4 := offsetOf_mod_four r
  simp only [IsAccessError, ho, hs] at h
  cases r with
  | id | sm4Dout | sm4Rk => rfl
  | status | ctrl => simp [offsetOf] at h
  | curve c j =>
    refine if_pos (by_contra fun idle => ?_)
    simp only [offsetOf, idle, ne_eq, not_true_eq_false, false_and, and_false, or_false, false_or] at h
    cases c <;> simp only [curveBase] at h <;> omega
  | cmd | pinf | sm3Ctl | sm3CntHi | sm3CntLo | v | sm3V | sm3Buf | sm4Key | sm4Din =>
    refine if_pos (by_contra fun idle => ?_)
    simp only [offsetOf, idle, ne_eq, not_true_eq_false, false_and, and_false, or_false, false_or] at h
    omega

theorem hostAccess_write_of_isAccessError {s : State} {x : Access} (hr : Running s) (hk : x.kind = .write)
    (h : IsAccessError s x) : hostAccess s x = accessError s := by
  obtain herr | ⟨r, hs, ho, hw⟩ := hostAccess_write_cases hr hk
  · exact herr
  · exact hw.trans (writeReg_of_isAccessError h hs ho _)

/-! ### What every access but a soft reset keeps -/

/-- What stays from `s` to `t`: the pin, the SM4 key data, and the command's progress unless one was accepted. -/
structure PortKeeps (s t : State) : Prop where
  rstN : t.rstN = s.rstN
  keyValid : t.keyValid = s.keyValid
  sm4Rk : t.sm4Rk = s.sm4Rk
  sm4Dout : t.sm4Dout = s.sm4Dout
  progress : (t.pend = s.pend ∧ t.busy = s.busy ∧ t.err = s.err ∧ (s.done = false → t.done = false)) ∨
    (t.pend = true ∧ t.busy = true ∧ t.err = 0 ∧ t.done = false)

/-- The form for an update of other fields. -/
theorem portKeeps_of_eq {s t : State} (rstN : t.rstN = s.rstN) (keyValid : t.keyValid = s.keyValid)
    (sm4Rk : t.sm4Rk = s.sm4Rk) (sm4Dout : t.sm4Dout = s.sm4Dout) (pend : t.pend = s.pend) (busy : t.busy = s.busy)
    (err : t.err = s.err) (done : t.done = s.done) : PortKeeps s t :=
  ⟨rstN, keyValid, sm4Rk, sm4Dout, .inl ⟨pend, busy, err, done.trans⟩⟩

theorem portKeeps_accessError (s : State) : PortKeeps s (accessError s) :=
  portKeeps_of_eq rfl rfl rfl rfl rfl rfl rfl rfl

theorem portKeeps_storeIdle {s t : State} (h : PortKeeps s t) : PortKeeps s (storeIdle s t) := by
  unfold storeIdle
  split
  · exact portKeeps_accessError s
  · exact h

theorem portKeeps_writeReg (s : State) {r : Reg} {w : Word} (h : r = .ctrl → w.getLsbD 1 = false) :
    PortKeeps s (writeReg s r w) := by
  cases r with
  | status =>
    exact ⟨rfl, rfl, rfl, rfl, .inl ⟨rfl, rfl, rfl, fun hd => by simp [writeReg, writeStatus, hd]⟩⟩
  | ctrl =>
    rw [writeReg, writeCtrl, h rfl, if_neg Bool.false_ne_true]
    exact portKeeps_of_eq rfl rfl rfl rfl rfl rfl rfl rfl
  | cmd => exact portKeeps_storeIdle ⟨rfl, rfl, rfl, rfl, .inr ⟨rfl, rfl, rfl, rfl⟩⟩
  | id | sm4Dout | sm4Rk => exact portKeeps_accessError s
  | curve c j =>
    cases c <;> exact portKeeps_storeIdle (portKeeps_of_eq rfl rfl rfl rfl rfl rfl rfl rfl)
  | pinf | sm3Ctl | sm3CntHi | sm3CntLo | v | sm3V | sm3Buf | sm4Key | sm4Din =>
    exact portKeeps_storeIdle (portKeeps_of_eq rfl rfl rfl rfl rfl rfl rfl rfl)

/-- An access in a running machine is a soft reset (70_reset_and_hazards.md R270) or keeps what `PortKeeps` names. -/
theorem hostAccess_reset_or_keeps {s : State} (hr : Running s) (x : Access) :
    (x.kind = .write ∧ x.off.toNat = 0x00C ∧ x.strb = 0xF ∧ x.data.getLsbD 1 = true ∧ hostAccess s x = resetRegs s) ∨
    PortKeeps s (hostAccess s x) := by
  cases hk : x.kind with
  | read =>
    obtain ⟨y, h⟩ | h := hostAccess_read_cases hr hk
    all_goals exact .inr (h ▸ portKeeps_of_eq rfl rfl rfl rfl rfl rfl rfl rfl)
  | write =>
    obtain h | ⟨r, hs, ho, h⟩ := hostAccess_write_cases hr hk
    · exact .inr (h ▸ portKeeps_accessError s)
    · by_cases hreset : r = .ctrl ∧ x.data.getLsbD 1 = true
      · obtain ⟨rfl, h1⟩ := hreset
        exact .inl ⟨rfl, ho, hs, h1, h.trans (if_pos h1)⟩
      · exact .inr (h ▸ portKeeps_writeReg s fun hc => Bool.eq_false_iff.mpr fun h1 => hreset ⟨hc, h1⟩)

theorem hostAccess_of_reset {s : State} (hr : s.rstN = false) (x : Access) :
    hostAccess s x = s ∨ hostAccess s x = { s with reply := some 0 } := by
  cases hk : x.kind with
  | read => exact .inr (by simp [hostAccess, hr, accessInReset, hk])
  | write => exact .inl (by simp [hostAccess, hr, accessInReset, hk])

end Sys2Proof.Proofs.Port

/-! PROOF. Every step keeps the state consistent (10_state.md R33 to R35, 40_execution.md R110, R111,
70_reset_and_hazards.md R272). -/

namespace Sys2Proof.Proofs.Invariant

open Sys2Proof.Machine Sys2Proof.Safety
open Sys2Proof.Proofs.Commands Sys2Proof.Proofs.Port

/-! ### Consistency and the parts of a step -/

/-- While the pin is at 1 nothing is held in reset. -/
theorem resetIsHeld_of_running {s : State} (hr : Running s) : ResetIsHeld s :=
  fun h => absurd (h.symm.trans hr) Bool.false_ne_true

/-- The model's own events and read answer stand in no relation of `Consistent`. -/
theorem consistent_inputs_reply {s : State} (h : Consistent s) (l : List Input) (y : Option Word) :
    Consistent { s with inputs := l, reply := y } := by
  obtain ⟨pend, clear, err, key, held⟩ := h
  refine ⟨pend, clear, err, key, fun hr => ?_⟩
  calc resetRegs { s with inputs := l, reply := y }
      = { resetRegs s with inputs := l, reply := y } := rfl
    _ = { s with inputs := l, reply := y } := by rw [held hr]

theorem consistent_resetRegs (s : State) : Consistent (resetRegs s) :=
  ⟨rfl, fun h => absurd h Bool.false_ne_true, Nat.zero_le 5, fun _ => ⟨rfl, rfl⟩, fun _ => rfl⟩

theorem consistent_setRstPin {s : State} (h : Consistent s) (level : Bool) : Consistent (setRstPin s level) := by
  cases level with
  | false => exact ⟨rfl, fun h => absurd h Bool.false_ne_true, Nat.zero_le 5, fun _ => ⟨rfl, rfl⟩, fun _ => rfl⟩
  | true =>
    obtain ⟨pend, clear, err, key, -⟩ := h
    exact ⟨pend, clear, err, key, resetIsHeld_of_running rfl⟩

theorem consistent_of_portKeeps {s t : State} (h : Consistent s) (hr : Running s) (keeps : PortKeeps s t) :
    Consistent t := by
  obtain ⟨pend, clear, err, key, -⟩ := h
  have key' : NoKeyNoData t := fun hk => by
    rw [keeps.sm4Rk, keeps.sm4Dout]
    exact key (keeps.keyValid ▸ hk)
  have held : ResetIsHeld t := resetIsHeld_of_running (keeps.rstN.trans hr)
  obtain ⟨hpend, hbusy, herr, hdone⟩ | ⟨hpend, hbusy, herr, hdone⟩ := keeps.progress
  · refine ⟨hpend.trans (pend.trans hbusy.symm), fun hb => ?_, (herr ▸ err : t.err.toNat ≤ 5), key', held⟩
    obtain ⟨hd, he⟩ := clear (hbusy ▸ hb)
    exact ⟨hdone hd, herr.trans he⟩
  · exact ⟨hpend.trans hbusy.symm, fun _ => ⟨hdone, herr⟩, by simp [herr], key', held⟩

theorem consistent_hostAccess {s : State} (h : Consistent s) (x : Access) : Consistent (hostAccess s x) := by
  cases hr : s.rstN with
  | true =>
    obtain ⟨-, -, -, -, reset⟩ | keeps := hostAccess_reset_or_keeps hr x
    · exact reset ▸ consistent_resetRegs s
    · exact consistent_of_portKeeps h hr keeps
  | false =>
    obtain same | answer := hostAccess_of_reset hr x
    · exact same.symm ▸ h
    · exact answer ▸ consistent_inputs_reply h s.inputs (some 0)

/-- Without a key a command leaves the key data at 0, unless it is SM4KEY, which sets KEYVALID. -/
theorem noKeyNoData_of_exec {i : Instr} {s t : State} (h : NoKeyNoData s) (ht : exec i s = .next t) :
    NoKeyNoData t := by
  intro hk
  have hi : i ≠ .sm4key := by
    rintro rfl
    simp [keyValid_of_exec_sm4key ht] at hk
  obtain ⟨hrk, hkv⟩ := exec_keeps_roundKeys ht hi
  have hs : s.keyValid = false := hkv ▸ hk
  rw [hrk, sm4Dout_of_exec ht hs]
  exact h hs

theorem consistent_exec {i : Instr} {s t : State} (h : Consistent s) (hr : Running s) (ht : exec i s = .next t) :
    Consistent t := by
  obtain ⟨-, -, -, key, -⟩ := h
  have c := completed_of_exec ht
  exact ⟨c.pend.trans c.busy.symm, fun hb => absurd (c.busy.symm.trans hb) Bool.false_ne_true, c.err,
    noKeyNoData_of_exec key ht, resetIsHeld_of_running (c.rstN.trans hr)⟩

theorem consistent_completeIllegal {s : State} (h : Consistent s) (hr : Running s) :
    Consistent (completeIllegal s) := by
  obtain ⟨-, -, -, key, -⟩ := h
  exact ⟨rfl, fun hb => absurd hb Bool.false_ne_true, errValue_le .illegal, key, resetIsHeld_of_running hr⟩

theorem consistent_engineTurn {s t : State} (h : Consistent s) (ht : engineTurn s = .next t) : Consistent t := by
  obtain ⟨-, rfl⟩ | ⟨hr, -, ⟨i, -, hi⟩ | ⟨e, -, rfl⟩⟩ := engineTurn_next ht
  · exact h
  · exact consistent_exec h hr hi
  · exact consistent_completeIllegal h hr

/-- Settles O16: a step takes an event, and each kind of event keeps the state consistent. -/
theorem stepKeepsConsistent : Obligations.StepKeepsConsistent := by
  intro s t h ht
  have taken (rest : List Input) : Consistent (takeInput s rest) := consistent_inputs_reply h rest none
  obtain ⟨rest, -, turn⟩ | ⟨x, rest, -, rfl⟩ | ⟨level, rest, -, rfl⟩ := step_next ht
  · exact consistent_engineTurn (taken rest) turn
  · exact consistent_hostAccess (taken rest) x
  · exact consistent_setRstPin (taken rest) level

/-- Settles O15: a reset, and `State.reset` is its own. -/
theorem resetStateIsConsistent : Obligations.ResetStateIsConsistent := consistent_resetRegs State.reset

end Sys2Proof.Proofs.Invariant

/-! PROOF. The SM4 round keys (10_state.md R34) and the interrupt output (60_exceptions.md R244) over the whole
machine. -/

namespace Sys2Proof.Proofs.WholeMachine

open Sys2Proof.Machine Sys2Proof.Safety Sys2Proof.Statements
open Sys2Proof.Proofs.Commands Sys2Proof.Proofs.Port

/-! ### The round keys (R34) -/

/-- Settles O33: one step, by its event. -/
theorem roundKeysChangeOnlyBySm4key : Obligations.RoundKeysChangeOnlyBySm4key := by
  intro s t ht
  obtain ⟨rest, moves, turn⟩ | ⟨x, rest, event, rfl⟩ | ⟨level, rest, event, rfl⟩ := step_next ht
  · obtain ⟨-, rfl⟩ | ⟨hr, hp, ⟨i, hi, completes⟩ | ⟨e, -, rfl⟩⟩ := engineTurn_next turn
    · exact .inl ⟨rfl, rfl⟩
    · by_cases sm4key : i = .sm4key
      · subst sm4key
        exact .inr (.inr ⟨hr, hp, hi, keyValid_of_exec_sm4key completes, rest, moves, completes⟩)
      · exact .inl (exec_keeps_roundKeys (s := takeInput s rest) completes sm4key)
    · exact .inl ⟨rfl, rfl⟩
  · cases hr : s.rstN with
    | true =>
      obtain ⟨write, off, strb, srst, reset⟩ | keeps := hostAccess_reset_or_keeps (s := takeInput s rest) hr x
      · rw [reset]
        exact .inr (.inl ⟨.inr ⟨hr, x, rest, event, write, off, strb, srst⟩, rfl, rfl⟩)
      · exact .inl ⟨keeps.sm4Rk, keeps.keyValid⟩
    | false =>
      obtain h | h := hostAccess_of_reset (s := takeInput s rest) hr x
      all_goals
        rw [h]
        exact .inl ⟨rfl, rfl⟩
  · cases level with
    | false => exact .inr (.inl ⟨.inl ⟨rest, event⟩, rfl, rfl⟩)
    | true => exact .inl ⟨rfl, rfl⟩

/-! ### The interrupt output (R36, R244) -/

theorem irq_of_completed {s t : State} (h : Completed s t) : irq t = s.ie := by
  rw [irq, h.done, h.ie, Bool.and_true]

theorem irq_engineTurn {s : State} (hr : Running s) (hp : s.pend = true) :
    ∃ t, engineTurn s = .next t ∧ irq t = s.ie := by
  obtain ⟨idle, -⟩ | ⟨-, completion⟩ := engineTurn_cases s
  · simp [engineReady, hr, hp] at idle
  · obtain ⟨t, ht, completed⟩ := completion_completed completion
    exact ⟨t, ht, irq_of_completed completed⟩

/-- A CTRL write with SRST clears irq, and one without it sets IE. -/
theorem irq_writeCtrl (s : State) (w : Word) :
    irq (writeCtrl s w) = if w.getLsbD 1 then false else (w.getLsbD 0 && s.done) := by
  unfold writeCtrl
  split
  · rfl
  · rfl

theorem irq_hostAccess_of_isAccessError {s : State} {x : Access} (hr : Running s) (h : IsAccessError s x) :
    irq (hostAccess s x) = irq s := by
  cases hk : x.kind with
  | read =>
    obtain ⟨y, hy⟩ | hy := hostAccess_read_cases hr hk
    all_goals rw [hy]; rfl
  | write => rw [hostAccess_write_of_isAccessError hr hk h]; rfl

/-- Settles O31: the rises and falls of R244, each by its rule. -/
theorem irqRisesAndFalls : Obligations.IrqRisesAndFalls := by
  refine ⟨fun _ => rfl, fun i s t h => irq_of_completed (completed_of_exec h), fun s => irq_engineTurn,
    fun s w hr => ?_, fun _ => rfl, fun s x => irq_hostAccess_of_isAccessError⟩
  rw [hostAccess_hostWR hr (r := .status) rfl, hostAccess_hostWR hr (r := .cmd) rfl,
    hostAccess_hostWR hr (r := .ctrl) rfl]
  simp only [writeReg, irq_writeCtrl]
  refine ⟨fun ack => ?_, fun idle => ?_, fun ieClear => ?_, fun srst => if_pos srst, fun ieSet noSrst => ?_⟩
  · simp [irq, writeStatus, ack]
  · simp [irq, storeIdle, idle]
  · rw [ieClear, Bool.false_and, ite_self]
  · rw [noSrst, ieSet, if_neg Bool.false_ne_true, Bool.true_and]

end Sys2Proof.Proofs.WholeMachine

/-! PROOF. Where fields, words and bytes stand: STATUS (10_state.md R29), 256-bit registers (R21), the SM3 block
(20_memory.md R69). -/

namespace Sys2Proof.Proofs.Layout

open Sys2Proof.Machine

/-! ### Words of a 256-bit register (R21) -/

/-- Word j is digit 7 - j in base 2 ^ 32. -/
theorem getWord_toNat (x : Big) (j : Fin 8) :
    (getWord x j).toNat = x.toNat / (2 ^ 32) ^ (7 - j.val) % 2 ^ 32 := by
  rw [getWord, BitVec.extractLsb'_toNat, Nat.shiftRight_eq_div_pow, Nat.pow_mul]

/-- The low `n` digits of a number, weighted and added. -/
theorem sum_digits_eq_mod (x b n : Nat) : ∑ k ∈ Finset.range n, x / b ^ k % b * b ^ k = x % b ^ n := by
  induction n with
  | zero => simp [Nat.mod_one]
  | succ n ih => rw [Finset.sum_range_succ, ih, Nat.mod_pow_succ, Nat.mul_comm (b ^ n)]

theorem toNat_eq_sum_getWord (x : Big) : x.toNat = ∑ j : Fin 8, (getWord x j).toNat * 2 ^ (32 * (7 - j.val)) := by
  simp only [getWord_toNat, Nat.pow_mul]
  rw [Fin.sum_univ_eq_sum_range (fun j => x.toNat / (2 ^ 32) ^ (7 - j) % 2 ^ 32 * (2 ^ 32) ^ (7 - j)) 8,
    Finset.sum_range_reflect (fun k => x.toNat / (2 ^ 32) ^ k % 2 ^ 32 * (2 ^ 32) ^ k) 8, sum_digits_eq_mod]
  exact (Nat.mod_eq_of_lt x.isLt).symm

/-- Settles O25: a read of word j answers digit 7 - j. -/
theorem wideRegistersAreBigEndian : Obligations.WideRegistersAreBigEndian :=
  fun s => ⟨fun i => toNat_eq_sum_getWord s.v[i], fun c => toNat_eq_sum_getWord (getCurve s c)⟩

theorem bigOfWords_concat (l : List Word) (w : Word) : bigOfWords (l ++ [w]) = bigOfWords l * 2 ^ 32 + w.toNat := by
  simp only [bigOfWords, List.foldl_append, List.foldl_cons, List.foldl_nil]

/-- The first `n` words, assembled by the host, are the value without its low words. -/
theorem bigOfWords_take_getWord (x : Big) {n : Nat} (hn : n ≤ 8) :
    bigOfWords (((List.finRange 8).map (getWord x)).take n) = x.toNat / (2 ^ 32) ^ (8 - n) := by
  induction n with
  | zero => exact (Nat.div_eq_of_lt x.isLt).symm
  | succ n ih =>
    have before : 8 - n = 7 - n + 1 := by omega
    have after : 8 - (n + 1) = 7 - n := by omega
    rw [List.take_succ_eq_append_getElem (by simp; omega), bigOfWords_concat, ih (by omega), List.getElem_map,
      getWord_toNat, List.getElem_finRange, before, after, Nat.pow_succ, ← Nat.div_div_eq_div_mul]
    exact Nat.div_add_mod' _ _

theorem bigOfWords_getWord (x : Big) : bigOfWords ((List.finRange 8).map (getWord x)) = x.toNat := by
  have all := bigOfWords_take_getWord x (le_refl 8)
  rwa [List.take_of_length_le (by simp), Nat.sub_self, Nat.pow_zero, Nat.div_one] at all

/-! ### Bytes of the SM3 block (R69) -/

theorem bytesOf_getElem? (w : Word) (t : Fin 4) : (bytesOf w)[t.val]? = some (byteOf w t) := by
  fin_cases t <;> rfl

theorem flatMap_bytesOf_getElem? (l : List Word) (j : Nat) (t : Fin 4) :
    (l.flatMap bytesOf)[4 * j + t.val]? = l[j]?.map (byteOf · t) := by
  induction l generalizing j with
  | nil => rfl
  | cons w l ih =>
    rw [List.flatMap_cons]
    cases j with
    | zero =>
      rw [List.getElem?_append_left (by simp [bytesOf])]
      simpa using bytesOf_getElem? w t
    | succ j =>
      have skip : 4 * (j + 1) + t.val = (bytesOf w).length + (4 * j + t.val) := by
        simp only [bytesOf, List.length_cons, List.length_nil]
        omega
      rw [skip, List.getElem?_append_right (Nat.le_add_right ..), Nat.add_sub_cancel_left, ih,
        List.getElem?_cons_succ]

/-- Settles O27: four bytes a word, each at its place in its word. -/
theorem bytesPackBigEndian : Obligations.BytesPackBigEndian := by
  intro m j t
  have place : 8 * (3 - t.val) = 24 - 8 * t.val := by omega
  rw [bufBytes, flatMap_bytesOf_getElem?]
  simp [byteOf, place]

/-! ### STATUS (R29) -/

theorem statusWord_err (s : State) : (statusWord s).extractLsb' 4 4 = s.err := by
  rw [statusWord]
  repeat rw [BitVec.extractLsb'_append_eq_of_le (by decide)]
  rw [BitVec.extractLsb'_append_eq_of_add_le (by decide), BitVec.extractLsb'_eq_self]

theorem statusWord_chk (s : State) : (statusWord s).extractLsb' 8 3 = s.chk := by
  rw [statusWord]
  repeat rw [BitVec.extractLsb'_append_eq_of_le (by decide)]
  rw [BitVec.extractLsb'_append_eq_of_add_le (by decide), BitVec.extractLsb'_eq_self]

theorem statusWord_reserved (s : State) : (statusWord s).extractLsb' 14 18 = 0 := by
  rw [statusWord]
  repeat rw [BitVec.extractLsb'_append_eq_of_le (by decide)]
  exact BitVec.extractLsb'_eq_self

/-- Settles O21: each single bit is found past the parts of the word to its right. -/
theorem statusFieldsStandWhereR29Says : Obligations.StatusFieldsStandWhereR29Says := by
  intro s
  refine ⟨?_, ?_, ?_, ?_, statusWord_err s, statusWord_chk s, ?_, ?_, ?_, statusWord_reserved s⟩
  all_goals
    rw [readReg, statusWord]
    repeat rw [BitVec.getLsbD_append]
    simp

end Sys2Proof.Proofs.Layout

/-! PROOF. Idle writes of data registers (20_memory.md R65), and the wide loads and reads made of them
(30_encoding.md R98). -/

namespace Sys2Proof.Proofs.DataRegisters

open Sys2Proof.Machine Sys2Proof.Safety Sys2Proof.Statements
open Sys2Proof.Proofs.Port Sys2Proof.Proofs.Layout

theorem storeIdle_of_idle {s : State} (h : s.busy = false) (t : State) : storeIdle s t = t :=
  if_neg (Bool.eq_false_iff.mp h)

/-! ### Register files and curve registers -/

theorem getElem_set_self {α : Type} {n : Nat} (x : Vector α n) (i : Fin n) (a : α) : (x.set i a)[i] = a :=
  Vector.getElem_set_self i.isLt

theorem getElem_set_ne {α : Type} {n : Nat} (x : Vector α n) {i k : Fin n} (a : α) (h : k ≠ i) :
    (x.set i a)[k] = x[k] :=
  Vector.getElem_set_ne i.isLt k.isLt fun hv => h (Fin.ext hv.symm)

@[simp] theorem getCurve_setCurve_self (s : State) (c : CurveReg) (x : Big) : getCurve (setCurve s c x) c = x := by
  cases c <;> rfl

theorem getCurve_setCurve_ne (s : State) {c d : CurveReg} (x : Big) (h : d ≠ c) :
    getCurve (setCurve s c x) d = getCurve s d := by
  cases c with
  | cp => cases d with
    | cp => exact absurd rfl h
    | ca | cb | cn => rfl
  | ca => cases d with
    | ca => exact absurd rfl h
    | cp | cb | cn => rfl
  | cb => cases d with
    | cb => exact absurd rfl h
    | cp | ca | cn => rfl
  | cn => cases d with
    | cn => exact absurd rfl h
    | cp | ca | cb => rfl

@[simp] theorem setCurve_setCurve (s : State) (c : CurveReg) (x y : Big) :
    setCurve (setCurve s c x) c y = setCurve s c y := by
  cases c <;> rfl

@[simp] theorem setCurve_getCurve (s : State) (c : CurveReg) : setCurve s c (getCurve s c) = s := by
  cases c <;> rfl

/-- A curve register is read by its own words only. -/
theorem readReg_setCurve (s : State) (c : CurveReg) (x : Big) {q : Reg} (h : ∀ d j, q ≠ .curve d j) :
    readReg (setCurve s c x) q = readReg s q := by
  cases q with
  | curve d j => exact absurd rfl (h d j)
  | _ => cases c <;> rfl

/-! ### An idle write (R65) -/

/-- The low `n` bits of a word with zeros before them are the word under their mask. -/
theorem toNat_zero_append_extractLsb' (w : Word) (m n : Nat) :
    (0#m ++ w.extractLsb' 0 n).toNat = w.toNat &&& (2 ^ n - 1) := by
  rw [BitVec.toNat_append, BitVec.extractLsb'_toNat, Nat.and_two_pow_sub_one_eq_mod]
  simp

theorem pinfWord_mask (w : Word) : 0#24 ++ w.extractLsb' 0 8 = w &&& 0xFF := by
  apply BitVec.eq_of_toNat_eq
  exact toNat_zero_append_extractLsb' w _ _

theorem sm3CtlWord_mask (w : Word) : 0#31 ++ BitVec.ofBool (w.getLsbD 0) = w &&& 0x1 := by
  have bit : BitVec.ofBool (w.getLsbD 0) = w.extractLsb' 0 1 := by
    rw [← BitVec.setWidth_one, BitVec.setWidth_eq_extractLsb' (by decide)]
  apply BitVec.eq_of_toNat_eq
  rw [bit]
  exact toNat_zero_append_extractLsb' w _ _

/-- What was written reads back, its reserved bits 0. -/
theorem readReg_writeReg_self {s : State} {r : Reg} (idle : s.busy = false) (hr : isData r = true) (w : Word) :
    readReg (writeReg s r w) r = w &&& writableBits r := by
  have full : w &&& 0xFFFFFFFF = w := BitVec.and_allOnes
  cases r with
  | id | cmd | status | ctrl | sm4Dout | sm4Rk => exact absurd hr Bool.false_ne_true
  | pinf => rw [writeReg, storeIdle_of_idle idle]; exact pinfWord_mask w
  | sm3Ctl => rw [writeReg, storeIdle_of_idle idle]; exact sm3CtlWord_mask w
  | sm3CntHi =>
    rw [writeReg, storeIdle_of_idle idle, writableBits, full]
    exact (BitVec.extractLsb'_append_eq_of_le (by decide)).trans BitVec.extractLsb'_eq_self
  | sm3CntLo =>
    rw [writeReg, storeIdle_of_idle idle, writableBits, full]
    exact (BitVec.extractLsb'_append_eq_of_add_le (by decide)).trans BitVec.extractLsb'_eq_self
  | v i j =>
    rw [writeReg, storeIdle_of_idle idle, writableBits, full, readReg, State.setV_v, getElem_set_self,
      getWord_setWord_self]
  | curve c j =>
    rw [writeReg, storeIdle_of_idle idle, writableBits, full, readReg, getCurve_setCurve_self, getWord_setWord_self]
  | sm3V | sm3Buf | sm4Key | sm4Din =>
    rw [writeReg, storeIdle_of_idle idle, writableBits, full]
    exact getElem_set_self _ _ _

/-- Every other register reads as before, but STATUS after a write to SM3_CTL. -/
theorem readReg_writeReg_ne {s : State} {r q : Reg} (idle : s.busy = false) (hr : isData r = true) (w : Word)
    (hq : q ≠ r) (hstatus : ¬ (q = .status ∧ r = .sm3Ctl)) : readReg (writeReg s r w) q = readReg s q := by
  cases r with
  | id | cmd | status | ctrl | sm4Dout | sm4Rk => exact absurd hr Bool.false_ne_true
  | pinf =>
    rw [writeReg, storeIdle_of_idle idle]
    cases q with
    | pinf => exact absurd rfl hq
    | _ => rfl
  | sm3Ctl =>
    rw [writeReg, storeIdle_of_idle idle]
    cases q with
    | sm3Ctl => exact absurd rfl hq
    | status => exact absurd ⟨rfl, rfl⟩ hstatus
    | _ => rfl
  | sm3CntHi =>
    rw [writeReg, storeIdle_of_idle idle]
    cases q with
    | sm3CntHi => exact absurd rfl hq
    | sm3CntLo => exact (BitVec.extractLsb'_append_eq_of_add_le (by decide)).trans BitVec.extractLsb'_eq_self
    | _ => rfl
  | sm3CntLo =>
    rw [writeReg, storeIdle_of_idle idle]
    cases q with
    | sm3CntLo => exact absurd rfl hq
    | sm3CntHi => exact (BitVec.extractLsb'_append_eq_of_le (by decide)).trans BitVec.extractLsb'_eq_self
    | _ => rfl
  | v i j =>
    rw [writeReg, storeIdle_of_idle idle]
    cases q with
    | v k l =>
      rw [readReg, readReg, State.setV_v]
      by_cases hk : k = i
      · subst hk
        rw [getElem_set_self, getWord_setWord_ne]
        exact fun hl => hq (hl ▸ rfl)
      · rw [getElem_set_ne _ _ hk]
    | _ => rfl
  | curve c j =>
    rw [writeReg, storeIdle_of_idle idle]
    cases q with
    | curve d l =>
      rw [readReg, readReg]
      by_cases hd : d = c
      · subst hd
        rw [getCurve_setCurve_self, getWord_setWord_ne]
        exact fun hl => hq (hl ▸ rfl)
      · rw [getCurve_setCurve_ne _ _ hd]
    | _ => exact readReg_setCurve s c _ nofun
  | sm3V i =>
    rw [writeReg, storeIdle_of_idle idle]
    cases q with
    | sm3V k => exact getElem_set_ne _ _ fun h => hq (h ▸ rfl)
    | _ => rfl
  | sm3Buf j =>
    rw [writeReg, storeIdle_of_idle idle]
    cases q with
    | sm3Buf k => exact getElem_set_ne _ _ fun h => hq (h ▸ rfl)
    | _ => rfl
  | sm4Key i =>
    rw [writeReg, storeIdle_of_idle idle]
    cases q with
    | sm4Key k => exact getElem_set_ne _ _ fun h => hq (h ▸ rfl)
    | _ => rfl
  | sm4Din i =>
    rw [writeReg, storeIdle_of_idle idle]
    cases q with
    | sm4Din k => exact getElem_set_ne _ _ fun h => hq (h ▸ rfl)
    | _ => rfl

/-- A data write leaves PEND and the model's own read answer and draw counter. -/
theorem writeReg_data_frame {s : State} {r : Reg} (idle : s.busy = false) (hr : isData r = true) (w : Word) :
    (writeReg s r w).reply = s.reply ∧ (writeReg s r w).pend = s.pend ∧ (writeReg s r w).draws = s.draws := by
  cases r with
  | id | cmd | status | ctrl | sm4Dout | sm4Rk => exact absurd hr Bool.false_ne_true
  | curve c j =>
    rw [writeReg, storeIdle_of_idle idle]
    cases c <;> exact ⟨rfl, rfl, rfl⟩
  | pinf | sm3Ctl | sm3CntHi | sm3CntLo | v | sm3V | sm3Buf | sm4Key | sm4Din =>
    rw [writeReg, storeIdle_of_idle idle]
    exact ⟨rfl, rfl, rfl⟩

/-- Settles O23: the access is `writeReg` of that register. -/
theorem idleWritesReachOneRegister : Obligations.IdleWritesReachOneRegister := by
  intro s x r ⟨hrun, idle⟩ hr hk hs ho
  rw [hostAccess_write hrun hk hs ho]
  exact ⟨readReg_writeReg_self idle hr _, fun q => readReg_writeReg_ne idle hr _, writeReg_data_frame idle hr _⟩

/-! ### Wide loads and reads (R98) -/

theorem offsetOf_lt (r : Reg) : offsetOf r < 0x500 := by
  cases r with
  | curve c j => cases c <;> simp only [offsetOf, curveBase] <;> omega
  | id | cmd | status | ctrl | pinf | sm3Ctl | sm3CntHi | sm3CntLo => decide
  | v | sm3V | sm3Buf | sm4Key | sm4Din | sm4Dout | sm4Rk => simp only [offsetOf]; omega

theorem ofNat_offsetOf_toNat (r : Reg) : (BitVec.ofNat 12 (offsetOf r)).toNat = offsetOf r :=
  Nat.mod_eq_of_lt ((offsetOf_lt r).trans (by decide))

/-- After the words of `l` have been written, they are those of `x` and the others those of `y`. -/
theorem getWord_foldl_setWord (x : Big) (l : List (Fin 8)) (y : Big) (k : Fin 8) :
    getWord (l.foldl (fun y j => setWord y j (getWord x j)) y) k = if k ∈ l then getWord x k else getWord y k := by
  induction l generalizing y with
  | nil => rfl
  | cons j l ih =>
    rw [List.foldl_cons, ih]
    by_cases hj : k = j
    · subst hj
      simp
    · simp [hj, getWord_setWord_ne y _ hj]

theorem foldl_setWord_eq (x y : Big) : (List.finRange 8).foldl (fun y j => setWord y j (getWord x j)) y = x :=
  big_ext fun k => by rw [getWord_foldl_setWord, if_pos (List.mem_finRange k)]

/-- Eight writes load a wide register: `load y` is the state in which it holds `y`, and `r j` is its word j. -/
theorem hostRun_hostWriteWide {load : Big → State} {r : Fin 8 → Reg} {base : Nat} (idle : ∀ y, Idle (load y))
    (place : ∀ j, base + 4 * j.val = offsetOf (r j))
    (store : ∀ y j w, writeReg (load y) (r j) w = load (setWord y j w)) (x y : Big) :
    hostRun (load y) (hostWriteWide base x) = load x := by
  have word (y : Big) (j : Fin 8) : hostAccess (load y) (hostWR (BitVec.ofNat 12 (base + 4 * j.val)) (getWord x j)) =
      load (setWord y j (getWord x j)) := by
    rw [place, hostAccess_hostWR (idle y).1 (ofNat_offsetOf_toNat (r j)), store]
  rw [hostRun, hostWriteWide, List.foldl_map, List.foldl_hom load word, foldl_setWord_eq]

theorem hostRun_hostWRV {s : State} (h : Idle s) (i : VReg) (x : Big) : hostRun s (hostWRV i x) = s.setV i x := by
  have held : s.setV i s.v[i] = s := by simp [State.setV]
  have store (y : Big) (j : Fin 8) (w : Word) : writeReg (s.setV i y) (.v i j) w = s.setV i (setWord y j w) := by
    rw [writeReg, storeIdle_of_idle (s := s.setV i y) h.2, State.setV_v, getElem_set_self]
    simp [State.setV]
  conv_lhs => rw [← held]
  exact hostRun_hostWriteWide (load := s.setV i) (r := .v i) (fun _ => h) (fun _ => rfl) store x s.v[i]

theorem hostRun_hostWRC {s : State} (h : Idle s) (c : CurveReg) (x : Big) :
    hostRun s (hostWRC c x) = setCurve s c x := by
  have idle (y : Big) : Idle (setCurve s c y) := by cases c <;> exact h
  have store (y : Big) (j : Fin 8) (w : Word) :
      writeReg (setCurve s c y) (.curve c j) w = setCurve s c (setWord y j w) := by
    rw [writeReg, storeIdle_of_idle (idle y).2, getCurve_setCurve_self, setCurve_setCurve]
  conv_lhs => rw [← setCurve_getCurve s c]
  exact hostRun_hostWriteWide (load := setCurve s c) (r := .curve c) idle (fun _ => rfl) store x (getCurve s c)

theorem readAnswer_of_offsetOf (s : State) {x : Access} {r : Reg} (h : x.off.toNat = offsetOf r) :
    readAnswer s x = readReg s r := by
  rw [readAnswer, readTarget_eq_some_iff.mpr h]

theorem map_readAnswer_hostRDV (s : State) (i : VReg) :
    (hostRDV i).map (readAnswer s) = (List.finRange 8).map (getWord s.v[i]) := by
  rw [hostRDV, hostReadWide, List.map_map]
  exact List.map_congr_left fun j _ => readAnswer_of_offsetOf s (x := hostRD _) (ofNat_offsetOf_toNat (.v i j))

/-- Settles O26: word by word, and a register is its eight words. -/
theorem wideLoadsRoundTrip : Obligations.WideLoadsRoundTrip :=
  ⟨fun _ i x h => hostRun_hostWRV h i x, fun _ c x h => hostRun_hostWRC h c x,
    fun s i => by rw [map_readAnswer_hostRDV, bigOfWords_getWord]⟩

end Sys2Proof.Proofs.DataRegisters

/-! PROOF. What a step does with its event (20_memory.md R60, 60_exceptions.md R240, 70_reset_and_hazards.md R270). -/

namespace Sys2Proof.Proofs.Events

open Sys2Proof.Machine Sys2Proof.Statements
open Sys2Proof.Proofs.Commands

theorem step_access {s : State} {x : Access} {rest : List Input} (h : s.inputs = .access x :: rest) :
    step s = .next (hostAccess (takeInput s rest) x) := by
  rw [step, h]

theorem step_rstPin {s : State} {level : Bool} {rest : List Input} (h : s.inputs = .rstPin level :: rest) :
    step s = .next (setRstPin (takeInput s rest) level) := by
  rw [step, h]

theorem step_engine {s : State} {rest : List Input} (h : EngineMoves s rest) :
    step s = engineTurn (takeInput s rest) := by
  obtain h | ⟨h, rfl⟩ := h <;> rw [step, h]

theorem exists_engineTurn_next (s : State) : ∃ t, engineTurn s = .next t := by
  obtain ⟨-, passes⟩ | ⟨-, completion⟩ := engineTurn_cases s
  · exact ⟨s, passes⟩
  · obtain ⟨t, ht, -⟩ := completion_completed completion
    exact ⟨t, ht⟩

theorem exists_step_next (s : State) : ∃ t, step s = .next t := by
  match h : s.inputs with
  | [] => exact step_engine (.inr ⟨h, rfl⟩) ▸ exists_engineTurn_next _
  | .engine :: rest => exact step_engine (.inl h) ▸ exists_engineTurn_next _
  | .access x :: rest => exact ⟨_, step_access h⟩
  | .rstPin level :: rest => exact ⟨_, step_rstPin h⟩

/-- Settles O11: by the event, and the engine's turn always answers. -/
theorem stepPerformsItsEvent : Obligations.StepPerformsItsEvent :=
  ⟨fun _ _ _ => step_access, fun _ _ _ => step_rstPin, exists_step_next⟩

end Sys2Proof.Proofs.Events

/-! PROOF. The unmapped offsets (20_memory.md R62, R67), the access errors A1 to A5 (60_exceptions.md R242) and what an
access can change while BUSY (20_memory.md R66). -/

namespace Sys2Proof.Proofs.AccessErrors

open Sys2Proof.Machine Sys2Proof.Safety Sys2Proof.Statements
open Sys2Proof.Proofs.Port

/-! ### The unmapped offsets (R67) -/

theorem wordIndex_eq_none_iff {base n off : Nat} :
    wordIndex base n off = none ↔ off < base ∨ base + 4 * n ≤ off := by
  refine ⟨fun h => by_contra fun inside => ?_, wordIndex_outside⟩
  rw [wordIndex, dif_pos (by omega)] at h
  exact Option.some_ne_none _ h

theorem regAt_ne_none_of_lt {o : BitVec 12} (h4 : o.toNat % 4 = 0) (h : o.toNat < 0x020) : regAt o ≠ none := by
  unfold regAt
  split
  case h_9 =>
    simp only [imp_false] at *
    omega
  all_goals exact Option.some_ne_none _

/-- The aligned offsets with no register are the three gaps between the runs of the map. -/
theorem regAt_eq_none_iff {o : BitVec 12} (h4 : o.toNat % 4 = 0) : regAt o = none ↔
    (0x020 ≤ o.toNat ∧ o.toNat ≤ 0x0FF) ∨ (0x410 ≤ o.toNat ∧ o.toNat ≤ 0x47F) ∨ 0x500 ≤ o.toNat := by
  by_cases low : o.toNat < 0x020
  · refine iff_of_false (regAt_ne_none_of_lt h4 low) ?_
    omega
  · rw [regAt_run (Nat.le_of_not_lt low) h4]
    simp only [Option.orElse_eq_none, vWordAt, Option.map_eq_none_iff, wordIndex_eq_none_iff]
    omega

/-- Settles O17: the map in both directions, and its gaps. -/
theorem registerMapIsExact : Obligations.RegisterMapIsExact :=
  ⟨fun _ _ => regAt_eq_some_iff, fun _ => regAt_eq_none_iff⟩

/-! ### The access errors (R242) -/

/-- Of A1 to A5 only A1 and A3 concern a read, and neither names the offset of a register. -/
theorem ne_offsetOf_of_isAccessError {s : State} {x : Access} (hk : x.kind = .read) (h : IsAccessError s x) (r : Reg) :
    x.off.toNat ≠ offsetOf r := by
  intro ho
  obtain misaligned | ⟨hw, -⟩ | unmapped | ⟨hw, -⟩ | ⟨hw, -⟩ := h
  · exact misaligned (ho ▸ offsetOf_mod_four r)
  · simp [hk] at hw
  · have absent : regAt x.off = none := (regAt_eq_none_iff (ho ▸ offsetOf_mod_four r)).mpr unmapped
    exact Option.some_ne_none r ((regAt_of_offsetOf ho).symm.trans absent)
  · simp [hk] at hw
  · simp [hk] at hw

theorem hostAccess_of_isAccessError {s : State} {x : Access} (hr : Running s) (h : IsAccessError s x) :
    hostAccess s x = { s with aerr := true, reply := if x.kind = .read then some 0 else s.reply } := by
  cases hk : x.kind with
  | read => exact hostAccess_read_unmapped hr hk (ne_offsetOf_of_isAccessError hk h)
  | write => exact hostAccess_write_of_isAccessError hr hk h

theorem exists_offsetOf_of_not_isAccessError {s : State} {x : Access} (h : ¬ IsAccessError s x) :
    ∃ r, x.off.toNat = offsetOf r := by
  have h4 : x.off.toNat % 4 = 0 := by_contra fun misaligned => h (.inl misaligned)
  have mapped : regAt x.off ≠ none := fun unmapped => h (.inr (.inr (.inl ((regAt_eq_none_iff h4).mp unmapped))))
  obtain ⟨r, hr⟩ := Option.ne_none_iff_exists'.mp mapped
  exact ⟨r, offsetOf_of_regAt hr⟩

/-! ### AERR after a write (R65, R66) -/

/-- AERR after a write of `w` at the place of a register, with full strobes. -/
def aerrAfterWrite (s : State) (w : Word) : Reg → Bool
  | .status => s.aerr && !w.getLsbD 2
  | .ctrl => s.aerr && !w.getLsbD 1
  | .id | .sm4Dout _ | .sm4Rk _ => true
  | .cmd | .pinf | .sm3Ctl | .sm3CntHi | .sm3CntLo | .v _ _ | .curve _ _ | .sm3V _ | .sm3Buf _ | .sm4Key _
  | .sm4Din _ => s.aerr || s.busy

theorem storeIdle_aerr {s t : State} (h : t.aerr = s.aerr) : (storeIdle s t).aerr = (s.aerr || s.busy) := by
  obtain ⟨busy, ht⟩ | ⟨idle, ht⟩ := storeIdle_cases s t
  · rw [ht, busy, Bool.or_true, accessError_aerr]
  · rw [ht, idle, Bool.or_false, h]

theorem writeReg_aerr (s : State) (r : Reg) (w : Word) : (writeReg s r w).aerr = aerrAfterWrite s w r := by
  cases r with
  | status | id | sm4Dout | sm4Rk => rfl
  | ctrl =>
    rw [writeReg, writeCtrl, aerrAfterWrite]
    cases w.getLsbD 1 <;> simp
  | curve c j => cases c <;> exact storeIdle_aerr rfl
  | cmd | pinf | sm3Ctl | sm3CntHi | sm3CntLo | v | sm3V | sm3Buf | sm4Key | sm4Din => exact storeIdle_aerr rfl

/-- A write that raises AERR is of A4 or A5. -/
theorem isAccessError_of_aerrAfterWrite {s : State} {x : Access} {r : Reg} (hk : x.kind = .write)
    (ho : x.off.toNat = offsetOf r) (clear : s.aerr = false) (rises : aerrAfterWrite s x.data r = true) :
    IsAccessError s x := by
  have readOnly (h : offsetOf r = 0x000 ∨ (0x400 ≤ offsetOf r ∧ offsetOf r ≤ 0x40F) ∨
      (0x480 ≤ offsetOf r ∧ offsetOf r ≤ 0x4FF)) : IsAccessError s x := .inr (.inr (.inr (.inl ⟨hk, ho ▸ h⟩)))
  have refused (hb : s.busy = true) (h : offsetOf r ≠ 0x008 ∧ offsetOf r ≠ 0x00C) : IsAccessError s x :=
    .inr (.inr (.inr (.inr ⟨hk, hb, ho ▸ h⟩)))
  cases r with
  | status | ctrl => simp [aerrAfterWrite, clear] at rises
  | id => exact readOnly (.inl rfl)
  | sm4Dout | sm4Rk => exact readOnly (by simp only [offsetOf]; omega)
  | curve c j =>
    refine refused (by simpa [aerrAfterWrite, clear] using rises) ?_
    cases c <;> simp only [offsetOf, curveBase] <;> omega
  | cmd | pinf | sm3Ctl | sm3CntHi | sm3CntLo | v | sm3V | sm3Buf | sm4Key | sm4Din =>
    refine refused (by simpa [aerrAfterWrite, clear] using rises) ?_
    simp only [offsetOf]
    omega

theorem aerr_of_not_isAccessError {s : State} {x : Access} (hr : Running s) (h : ¬ IsAccessError s x)
    (clear : s.aerr = false) : (hostAccess s x).aerr = false := by
  obtain ⟨r, ho⟩ := exists_offsetOf_of_not_isAccessError h
  cases hk : x.kind with
  | read => rw [hostAccess_read hr hk ho]; exact clear
  | write =>
    have hs : x.strb = 0xF := by_contra fun strobes => h (.inr (.inl ⟨hk, strobes⟩))
    rw [hostAccess_write hr hk hs ho, writeReg_aerr]
    exact Bool.eq_false_iff.mpr fun rises => h (isAccessError_of_aerrAfterWrite hk ho clear rises)

/-- A set AERR falls only by a write of STATUS bit 2 or of CTRL.SRST. -/
theorem aerr_falls {s : State} {x : Access} (hr : Running s) (set : s.aerr = true)
    (falls : (hostAccess s x).aerr = false) : x.kind = .write ∧
      ((x.off.toNat = 0x008 ∧ x.data.getLsbD 2 = true) ∨ (x.off.toNat = 0x00C ∧ x.data.getLsbD 1 = true)) := by
  cases hk : x.kind with
  | read => obtain ⟨y, h⟩ | h := hostAccess_read_cases hr hk <;> simp [h, set] at falls
  | write =>
    refine ⟨rfl, ?_⟩
    obtain h | ⟨r, hs, ho, h⟩ := hostAccess_write_cases hr hk
    · simp [h] at falls
    · rw [h, writeReg_aerr] at falls
      cases r with
      | status => exact .inl ⟨ho, by simpa [aerrAfterWrite, set] using falls⟩
      | ctrl => exact .inr ⟨ho, by simpa [aerrAfterWrite, set] using falls⟩
      | _ => simp [aerrAfterWrite, set] at falls

/-- Settles O19: A1 to A5 by the register map, then AERR after each legal access. -/
theorem accessErrorsAreA1ToA5 : Obligations.AccessErrorsAreA1ToA5 :=
  fun _ _ hr => ⟨hostAccess_of_isAccessError hr, aerr_of_not_isAccessError hr, aerr_falls hr⟩

/-! ### While BUSY (R66) -/

/-- An access that finds and leaves a command in flight stores nothing that the command reads or writes. -/
theorem eq_of_accessEffect {s t : State} (h : AccessEffect s t) (before : s.busy = true) (after : t.busy = true) :
    t = { s with done := t.done, aerr := t.aerr, ie := t.ie, reply := t.reply } := by
  cases h with
  | answer | readError | error | status | ignored => rfl
  | store r w idle => simp [before] at idle
  | ctrl w =>
    by_cases srst : w.getLsbD 1 = true
    · rw [writeCtrl, if_pos srst] at after
      exact absurd after Bool.false_ne_true
    · rw [writeCtrl, if_neg srst]

theorem busy_of_portKeeps {s t : State} (h : PortKeeps s t) (hb : s.busy = true) : t.busy = true := by
  obtain ⟨-, busy, -⟩ | ⟨-, busy, -⟩ := h.progress
  · exact busy.trans hb
  · exact busy

/-- Settles O24: a refused write is of A5, and an access that is no soft reset leaves the command in flight. -/
theorem busyProtectsTheCommand : Obligations.BusyProtectsTheCommand := by
  intro s x hr hb
  refine ⟨fun hk status ctrl => ?_, fun noReset => ?_⟩
  · exact hostAccess_write_of_isAccessError hr hk (.inr (.inr (.inr (.inr ⟨hk, hb, status, ctrl⟩))))
  · obtain ⟨hk, off, strb, srst, -⟩ | keeps := hostAccess_reset_or_keeps hr x
    · exact absurd ⟨hk, off, strb, srst⟩ noReset
    · exact eq_of_accessEffect (hostAccess_effect s x) hb (busy_of_portKeeps keeps hb)

end Sys2Proof.Proofs.AccessErrors

/-! PROOF. The fields of a command word against the masks of R92 and against the decoder's formats (30_encoding.md R90
to R92, R97). -/

namespace Sys2Proof.Proofs.CommandWord

/-! ### A word as its fields (R90) -/

theorem toNat_eq_zero_iff {n : Nat} {f : BitVec n} : f.toNat = 0 ↔ f = 0#n :=
  ⟨field_eq_zero, fun h => by rw [h, BitVec.toNat_zero]⟩

/-- The words that R97 packs, by their fields: OP and the operands in place, RSV 0. -/
theorem packFields_eq_iff {w : Word} {op rd rs1 rs2 rs3 len : Nat} (h0 : op < 256) (h1 : rd < 16) (h2 : rs1 < 16)
    (h3 : rs2 < 16) (h4 : rs3 < 16) (h5 : len < 64) : packFields op rd rs1 rs2 rs3 len = w ↔
      (opOf w).toNat = op ∧ (rdOf w).toNat = rd ∧ (rs1Of w).toNat = rs1 ∧ (rs2Of w).toNat = rs2 ∧
      (rs3Of w).toNat = rs3 ∧ (lenOf w).toNat = len ∧ (rsvOf w).toNat = 0 := by
  constructor
  · rintro rfl
    exact packFields_fields h0 h1 h2 h3 h4 h5
  · rintro ⟨rfl, rfl, rfl, rfl, rfl, rfl, rsv⟩
    simpa [rsv, packFields] using (congrArg (BitVec.ofNat 32) (word_toNat_eq_fields w)).symm

theorem and_fields (w m : Word) : opOf (w &&& m) = opOf w &&& opOf m ∧ rdOf (w &&& m) = rdOf w &&& rdOf m ∧
    rs1Of (w &&& m) = rs1Of w &&& rs1Of m ∧ rs2Of (w &&& m) = rs2Of w &&& rs2Of m ∧
    rs3Of (w &&& m) = rs3Of w &&& rs3Of m ∧ lenOf (w &&& m) = lenOf w &&& lenOf m ∧
    rsvOf (w &&& m) = rsvOf w &&& rsvOf m := by
  refine ⟨?_, ?_, ?_, ?_, ?_, ?_, ?_⟩ <;> exact BitVec.extractLsb'_and

/-! ### What a field holds (R91) -/

theorem vField_eq_iff {f : BitVec 4} {i : VReg} : vField f = i ↔ f.toNat = i.val := Fin.ext_iff

theorem lenField_eq_iff {f : BitVec 6} {n : Len} : lenField f = n ↔ f.toNat = n.val := Fin.ext_iff

/-- What a range check takes: an index of a point field (R91) or of an assembler operand (R97). -/
theorem dite_lt_eq_ok_iff {ε : Type} {e : ε} {n m : Nat} {k : Fin m} :
    (if h : n < m then Except.ok ⟨n, h⟩ else .error e) = Except.ok k ↔ n = k.val := by
  constructor
  · intro taken
    split at taken
    · exact congrArg Fin.val (Except.ok.inj taken)
    · cases taken
  · rintro rfl
    exact dif_pos k.isLt

theorem pField_eq_ok_iff {f : BitVec 4} {k : PReg} : pField f = .ok k ↔ f.toNat = k.val := dite_lt_eq_ok_iff

/-- A field names a point register when its top bit is 0. -/
theorem and_eight_eq_zero_iff {f : BitVec 4} : f &&& 8#4 = 0#4 ↔ ∃ k : PReg, pField f = .ok k := by
  revert f
  decide

@[simp] theorem and_fifteen (f : BitVec 4) : f &&& 15#4 = f := BitVec.and_allOnes

@[simp] theorem and_sixtyThree (f : BitVec 6) : f &&& 63#6 = f := BitVec.and_allOnes

/-! ### Masks (R92) -/

/-- The mask of a format: all of OP and RSV, and in every operand field the bits that the format fixes to 0. -/
def formatMask (rd rs1 rs2 rs3 : BitVec 4) (len : BitVec 6) : Word :=
  BitVec.ofNat 32 (0xFF + rd.toNat * 2 ^ 8 + rs1.toNat * 2 ^ 12 + rs2.toNat * 2 ^ 16 + rs3.toNat * 2 ^ 20 +
    len.toNat * 2 ^ 24 + 3 * 2 ^ 30)

theorem formatMask_fields (rd rs1 rs2 rs3 : BitVec 4) (len : BitVec 6) :
    opOf (formatMask rd rs1 rs2 rs3 len) = BitVec.allOnes 8 ∧ rdOf (formatMask rd rs1 rs2 rs3 len) = rd ∧
    rs1Of (formatMask rd rs1 rs2 rs3 len) = rs1 ∧ rs2Of (formatMask rd rs1 rs2 rs3 len) = rs2 ∧
    rs3Of (formatMask rd rs1 rs2 rs3 len) = rs3 ∧ lenOf (formatMask rd rs1 rs2 rs3 len) = len ∧
    rsvOf (formatMask rd rs1 rs2 rs3 len) = BitVec.allOnes 2 := by
  simp only [← BitVec.toNat_inj, opOf_toNat, rdOf_toNat, rs1Of_toNat, rs2Of_toNat, rs3Of_toNat, lenOf_toNat,
    rsvOf_toNat, formatMask, BitVec.toNat_ofNat, BitVec.toNat_allOnes]
  omega

/-- A word matches an opcode under a format's mask field by field. -/
theorem and_formatMask_eq_iff {w : Word} {op : Nat} (h : op < 256) {rd rs1 rs2 rs3 : BitVec 4} {len : BitVec 6} :
    w &&& formatMask rd rs1 rs2 rs3 len = BitVec.ofNat 32 op ↔
      (opOf w).toNat = op ∧ rdOf w &&& rd = 0#4 ∧ rs1Of w &&& rs1 = 0#4 ∧ rs2Of w &&& rs2 = 0#4 ∧
      rs3Of w &&& rs3 = 0#4 ∧ lenOf w &&& len = 0#6 ∧ rsvOf w = 0#2 := by
  have packed : BitVec.ofNat 32 op = packFields op 0 0 0 0 0 := by simp [packFields]
  rw [packed, eq_comm, packFields_eq_iff h (by omega) (by omega) (by omega) (by omega) (by omega)]
  simp only [and_fields w (formatMask rd rs1 rs2 rs3 len), formatMask_fields rd rs1 rs2 rs3 len, BitVec.and_allOnes,
    toNat_eq_zero_iff]

/-! ### A word that a row's mask matches is a packed word (R92, R94, R97) -/

section Masks
variable {w : Word} {op : Nat}

theorem and_maskN_eq_iff (h : op < 256) : w &&& 0xFFFFFFFF = BitVec.ofNat 32 op ↔ packFields op 0 0 0 0 0 = w := by
  rw [show (0xFFFFFFFF : Word) = formatMask 0xF 0xF 0xF 0xF 0x3F from rfl, and_formatMask_eq_iff h]
  simp (disch := omega) [packFields_eq_iff, toNat_eq_zero_iff]

theorem and_maskM4_eq_iff (h : op < 256) :
    w &&& 0xFF0000FF = BitVec.ofNat 32 op ↔ ∃ d a b m : VReg, packFields op d a b m 0 = w := by
  rw [show (0xFF0000FF : Word) = formatMask 0 0 0 0 0x3F from rfl, and_formatMask_eq_iff h]
  simp (disch := omega) [packFields_eq_iff, toNat_eq_zero_iff, ← vField_eq_iff]

theorem and_maskM3_eq_iff (h : op < 256) :
    w &&& 0xFF0F00FF = BitVec.ofNat 32 op ↔ ∃ d a m : VReg, packFields op d a 0 m 0 = w := by
  rw [show (0xFF0F00FF : Word) = formatMask 0 0 0xF 0 0x3F from rfl, and_formatMask_eq_iff h]
  simp (disch := omega) [packFields_eq_iff, toNat_eq_zero_iff, ← vField_eq_iff]

theorem and_maskE3_eq_iff (h : op < 256) :
    w &&& 0xFFF888FF = BitVec.ofNat 32 op ↔ ∃ d i j : PReg, packFields op d i j 0 0 = w := by
  rw [show (0xFFF888FF : Word) = formatMask 8 8 8 0xF 0x3F from rfl, and_formatMask_eq_iff h]
  simp (disch := omega) [packFields_eq_iff, toNat_eq_zero_iff, ← pField_eq_ok_iff, and_eight_eq_zero_iff]

theorem and_maskE2_eq_iff (h : op < 256) :
    w &&& 0xFFFF88FF = BitVec.ofNat 32 op ↔ ∃ d i : PReg, packFields op d i 0 0 0 = w := by
  rw [show (0xFFFF88FF : Word) = formatMask 8 8 0xF 0xF 0x3F from rfl, and_formatMask_eq_iff h]
  simp (disch := omega) [packFields_eq_iff, toNat_eq_zero_iff, ← pField_eq_ok_iff, and_eight_eq_zero_iff]

theorem and_maskEK_eq_iff (h : op < 256) : w &&& 0xFFF088FF = BitVec.ofNat 32 op ↔
    ∃ (d i : PReg) (k : VReg), packFields op d i k 0 0 = w := by
  rw [show (0xFFF088FF : Word) = formatMask 8 8 0 0xF 0x3F from rfl, and_formatMask_eq_iff h]
  simp (disch := omega) [packFields_eq_iff, toNat_eq_zero_iff, ← pField_eq_ok_iff, ← vField_eq_iff,
    and_eight_eq_zero_iff]

theorem and_maskES_eq_iff (h : op < 256) :
    w &&& 0xFFFF8FFF = BitVec.ofNat 32 op ↔ ∃ i : PReg, packFields op 0 i 0 0 0 = w := by
  rw [show (0xFFFF8FFF : Word) = formatMask 0xF 8 0xF 0xF 0x3F from rfl, and_formatMask_eq_iff h]
  simp (disch := omega) [packFields_eq_iff, toNat_eq_zero_iff, ← pField_eq_ok_iff, and_eight_eq_zero_iff]

theorem and_maskED_eq_iff (h : op < 256) :
    w &&& 0xFFFFF8FF = BitVec.ofNat 32 op ↔ ∃ d : PReg, packFields op d 0 0 0 0 = w := by
  rw [show (0xFFFFF8FF : Word) = formatMask 8 0xF 0xF 0xF 0x3F from rfl, and_formatMask_eq_iff h]
  simp (disch := omega) [packFields_eq_iff, toNat_eq_zero_iff, ← pField_eq_ok_iff, and_eight_eq_zero_iff]

theorem and_maskL_eq_iff (h : op < 256) :
    w &&& 0xC0FFFFFF = BitVec.ofNat 32 op ↔ ∃ n : Len, packFields op 0 0 0 0 n = w := by
  rw [show (0xC0FFFFFF : Word) = formatMask 0xF 0xF 0xF 0xF 0 from rfl, and_formatMask_eq_iff h]
  simp (disch := omega) [packFields_eq_iff, toNat_eq_zero_iff, ← lenField_eq_iff]

end Masks

/-! ### A word that a format of the decoder takes is a packed word (R92, R97) -/

theorem bind_eq_ok_iff {ε α β : Type} {x : Except ε α} {f : α → Except ε β} {b : β} :
    (x >>= f) = .ok b ↔ ∃ a, x = .ok a ∧ f a = .ok b := by
  cases x with
  | ok a => simp [bind, Except.bind]
  | error e => simp [bind, Except.bind]

theorem map_eq_ok_iff {ε α β : Type} {x : Except ε α} {f : α → β} {b : β} :
    (f <$> x) = .ok b ↔ ∃ a, x = .ok a ∧ f a = b := by
  cases x with
  | ok a => simp [Functor.map, Except.map]
  | error e => simp [Functor.map, Except.map]

@[simp] theorem whenUnusedZero_eq_ok_iff {z : Bool} {k : Except Illegal Instr} {i : Instr} :
    whenUnusedZero z k = .ok i ↔ z = true ∧ k = .ok i := by
  cases z <;> simp [whenUnusedZero]

section Formats
variable {w : Word} {op : Nat} {i : Instr} (hop : (opOf w).toNat = op) (hr : rsvOf w = 0#2)
include hop hr

/-- With OP and RSV known, a word is packed from its operand fields. -/
theorem packFields_eq_iff_operands {rd rs1 rs2 rs3 len : Nat} (h1 : rd < 16) (h2 : rs1 < 16) (h3 : rs2 < 16)
    (h4 : rs3 < 16) (h5 : len < 64) : packFields op rd rs1 rs2 rs3 len = w ↔
      (rdOf w).toNat = rd ∧ (rs1Of w).toNat = rs1 ∧ (rs2Of w).toNat = rs2 ∧ (rs3Of w).toNat = rs3 ∧
      (lenOf w).toNat = len := by
  have h0 : op < 256 := hop ▸ (opOf w).isLt
  simp [packFields_eq_iff h0 h1 h2 h3 h4 h5, hop, hr]

theorem formatN_eq_ok_iff {j : Instr} : formatN w j = .ok i ↔ packFields op 0 0 0 0 0 = w ∧ j = i := by
  simp (disch := omega) [formatN, packFields_eq_iff_operands hop hr, toNat_eq_zero_iff, and_assoc]

theorem formatM4_eq_ok_iff {mk : VReg → VReg → VReg → VReg → Instr} :
    formatM4 w mk = .ok i ↔ ∃ d a b m : VReg, packFields op d a b m 0 = w ∧ mk d a b m = i := by
  simp (disch := omega) [formatM4, packFields_eq_iff_operands hop hr, toNat_eq_zero_iff, ← vField_eq_iff]

theorem formatM3_eq_ok_iff {mk : VReg → VReg → VReg → Instr} :
    formatM3 w mk = .ok i ↔ ∃ d a m : VReg, packFields op d a 0 m 0 = w ∧ mk d a m = i := by
  simp (disch := omega) [formatM3, packFields_eq_iff_operands hop hr, toNat_eq_zero_iff, ← vField_eq_iff, and_assoc]

theorem formatE3_eq_ok_iff {mk : PReg → PReg → PReg → Instr} :
    formatE3 w mk = .ok i ↔ ∃ d a b : PReg, packFields op d a b 0 0 = w ∧ mk d a b = i := by
  simp (disch := omega) [formatE3, bind_eq_ok_iff, map_eq_ok_iff, packFields_eq_iff_operands hop hr, toNat_eq_zero_iff,
    ← pField_eq_ok_iff, and_left_comm, ← exists_and_left, and_assoc]

theorem formatE2_eq_ok_iff {mk : PReg → PReg → Instr} :
    formatE2 w mk = .ok i ↔ ∃ d a : PReg, packFields op d a 0 0 0 = w ∧ mk d a = i := by
  simp (disch := omega) [formatE2, bind_eq_ok_iff, map_eq_ok_iff, packFields_eq_iff_operands hop hr, toNat_eq_zero_iff,
    ← pField_eq_ok_iff, and_left_comm, ← exists_and_left, and_assoc]

theorem formatEK_eq_ok_iff {mk : PReg → PReg → VReg → Instr} :
    formatEK w mk = .ok i ↔ ∃ (d a : PReg) (k : VReg), packFields op d a k 0 0 = w ∧ mk d a k = i := by
  simp (disch := omega) [formatEK, bind_eq_ok_iff, map_eq_ok_iff, packFields_eq_iff_operands hop hr, toNat_eq_zero_iff,
    ← pField_eq_ok_iff, ← vField_eq_iff, and_left_comm, ← exists_and_left, and_assoc]

theorem formatES_eq_ok_iff {mk : PReg → Instr} :
    formatES w mk = .ok i ↔ ∃ a : PReg, packFields op 0 a 0 0 0 = w ∧ mk a = i := by
  simp (disch := omega) [formatES, map_eq_ok_iff, packFields_eq_iff_operands hop hr, toNat_eq_zero_iff,
    ← pField_eq_ok_iff, and_left_comm, ← exists_and_left, and_assoc]

theorem formatED_eq_ok_iff {mk : PReg → Instr} :
    formatED w mk = .ok i ↔ ∃ d : PReg, packFields op d 0 0 0 0 = w ∧ mk d = i := by
  simp (disch := omega) [formatED, map_eq_ok_iff, packFields_eq_iff_operands hop hr, toNat_eq_zero_iff,
    ← pField_eq_ok_iff, and_left_comm, ← exists_and_left, and_assoc]

theorem formatL_eq_ok_iff {mk : Len → Instr} :
    formatL w mk = .ok i ↔ ∃ n : Len, packFields op 0 0 0 0 n = w ∧ mk n = i := by
  simp (disch := omega) [formatL, packFields_eq_iff_operands hop hr, toNat_eq_zero_iff, ← lenField_eq_iff, and_assoc]

end Formats

end Sys2Proof.Proofs.CommandWord

/-! PROOF. Decoding and encoding undo each other (30_encoding.md R94, R97); legality, by the opcode map and the reserved
opcodes (R93 to R95); the words of R99. -/

namespace Sys2Proof.Proofs.Encoding

open Sys2Proof.Machine Sys2Proof.Safety Sys2Proof.Statements Sys2Proof.Laws
open Sys2Proof.Proofs.CommandWord Sys2Proof.Proofs.Port

/-! ### Decoding and encoding -/

open OpcodeField in
theorem opcodeField (i : Instr) : Statement i :=
  i.rec nop madd msub mmul mred minv mexp ecadd ecdbl ecmul ecchk ecldsm2 sm3init sm3blk sm3fin sm4key sm4enc sm4dec

/-- Settles O1: the opcode of the word picks the format, and the format finds each operand in its field. -/
theorem decodeInvertsEncode : Obligations.DecodeInvertsEncode := by
  intro i
  obtain ⟨hop, rsv⟩ := opcodeField i
  have hr := field_eq_zero rsv
  unfold decode
  split
  · exact absurd hr ‹_›
  · cases i <;> simp only [hop, opcodeOf] <;> rw [opcodeOf] at hop
    case nop | sm3init | sm3blk | sm4key | sm4enc | sm4dec => exact (formatN_eq_ok_iff hop hr).mpr ⟨rfl, rfl⟩
    case madd | msub | mmul | mexp => exact (formatM4_eq_ok_iff hop hr).mpr ⟨_, _, _, _, rfl, rfl⟩
    case mred | minv => exact (formatM3_eq_ok_iff hop hr).mpr ⟨_, _, _, rfl, rfl⟩
    case ecadd => exact (formatE3_eq_ok_iff hop hr).mpr ⟨_, _, _, rfl, rfl⟩
    case ecdbl => exact (formatE2_eq_ok_iff hop hr).mpr ⟨_, _, rfl, rfl⟩
    case ecmul => exact (formatEK_eq_ok_iff hop hr).mpr ⟨_, _, _, rfl, rfl⟩
    case ecchk => exact (formatES_eq_ok_iff hop hr).mpr ⟨_, rfl, rfl⟩
    case ecldsm2 => exact (formatED_eq_ok_iff hop hr).mpr ⟨_, rfl, rfl⟩
    case sm3fin => exact (formatL_eq_ok_iff hop hr).mpr ⟨_, rfl, rfl⟩

/-- Settles O2: a format takes a word that is packed from the operands the format reads. -/
theorem encodeInvertsDecode : Obligations.EncodeInvertsDecode := by
  intro w i h
  unfold decode at h
  split at h
  · cases h
  · have hr : rsvOf w = 0#2 := not_not.mp ‹_›
    split at h <;> rename_i hop
    case h_1 | h_13 | h_14 | h_16 | h_17 | h_18 =>
      obtain ⟨rfl, rfl⟩ := (formatN_eq_ok_iff hop hr).mp h
      rfl
    case h_2 | h_3 | h_4 | h_7 =>
      obtain ⟨_, _, _, _, rfl, rfl⟩ := (formatM4_eq_ok_iff hop hr).mp h
      rfl
    case h_5 | h_6 =>
      obtain ⟨_, _, _, rfl, rfl⟩ := (formatM3_eq_ok_iff hop hr).mp h
      rfl
    case h_8 =>
      obtain ⟨_, _, _, rfl, rfl⟩ := (formatE3_eq_ok_iff hop hr).mp h
      rfl
    case h_9 =>
      obtain ⟨_, _, rfl, rfl⟩ := (formatE2_eq_ok_iff hop hr).mp h
      rfl
    case h_10 =>
      obtain ⟨_, _, _, rfl, rfl⟩ := (formatEK_eq_ok_iff hop hr).mp h
      rfl
    case h_11 =>
      obtain ⟨_, rfl, rfl⟩ := (formatES_eq_ok_iff hop hr).mp h
      rfl
    case h_12 =>
      obtain ⟨_, rfl, rfl⟩ := (formatED_eq_ok_iff hop hr).mp h
      rfl
    case h_15 =>
      obtain ⟨_, rfl, rfl⟩ := (formatL_eq_ok_iff hop hr).mp h
      rfl
    case h_19 => cases h

theorem decode_eq_ok_iff {w : Word} {i : Instr} : decode w = .ok i ↔ encode i = w :=
  ⟨encodeInvertsDecode w i, fun h => h ▸ decodeInvertsEncode i⟩

theorem encode_injective : Function.Injective encode := fun _ j h =>
  Except.ok.inj ((decode_eq_ok_iff.mpr h).symm.trans (decodeInvertsEncode j))

/-! ### The opcode map (R93, R94) -/

/-- The word of a command matches a row of the command's mnemonic. -/
theorem exists_row_of_encode (i : Instr) :
    ∃ r ∈ opcodeRows, encode i &&& r.mask = r.op ∧ r.mnemonic = (disassemble i).mnemonic := by
  cases i <;> simp only [opcodeRows, List.exists_mem_cons_iff, List.not_mem_nil, exists_false, disassemble,
    reduceCtorEq, false_and, and_false, and_true, false_or, or_false]
  case nop | sm3init | sm3blk | sm4key | sm4enc | sm4dec => exact (and_maskN_eq_iff (by decide)).mpr rfl
  case madd | msub | mmul | mexp => exact (and_maskM4_eq_iff (by decide)).mpr ⟨_, _, _, _, rfl⟩
  case mred | minv => exact (and_maskM3_eq_iff (by decide)).mpr ⟨_, _, _, rfl⟩
  case ecadd => exact (and_maskE3_eq_iff (by decide)).mpr ⟨_, _, _, rfl⟩
  case ecdbl => exact (and_maskE2_eq_iff (by decide)).mpr ⟨_, _, rfl⟩
  case ecmul => exact (and_maskEK_eq_iff (by decide)).mpr ⟨_, _, _, rfl⟩
  case ecchk => exact (and_maskES_eq_iff (by decide)).mpr ⟨_, rfl⟩
  case ecldsm2 => exact (and_maskED_eq_iff (by decide)).mpr ⟨_, rfl⟩
  case sm3fin => exact (and_maskL_eq_iff (by decide)).mpr ⟨_, rfl⟩

/-- A word that matches a row is the word of a command of the row's mnemonic. -/
theorem exists_encode_of_row {w : Word} {r : OpcodeRow} (hr : r ∈ opcodeRows) (h : w &&& r.mask = r.op) :
    ∃ i, encode i = w ∧ (disassemble i).mnemonic = r.mnemonic := by
  revert r
  simp only [opcodeRows, List.forall_mem_cons, List.not_mem_nil, false_imp_iff, implies_true, and_true]
  and_intros <;> intro h
  · exact ⟨.nop, (and_maskN_eq_iff (op := 0) (by decide)).mp h, rfl⟩
  · obtain ⟨d, a, b, m, h⟩ := (and_maskM4_eq_iff (op := 1) (by decide)).mp h
    exact ⟨.madd d a b m, h, rfl⟩
  · obtain ⟨d, a, b, m, h⟩ := (and_maskM4_eq_iff (op := 2) (by decide)).mp h
    exact ⟨.msub d a b m, h, rfl⟩
  · obtain ⟨d, a, b, m, h⟩ := (and_maskM4_eq_iff (op := 3) (by decide)).mp h
    exact ⟨.mmul d a b m, h, rfl⟩
  · obtain ⟨d, a, m, h⟩ := (and_maskM3_eq_iff (op := 4) (by decide)).mp h
    exact ⟨.mred d a m, h, rfl⟩
  · obtain ⟨d, a, m, h⟩ := (and_maskM3_eq_iff (op := 5) (by decide)).mp h
    exact ⟨.minv d a m, h, rfl⟩
  · obtain ⟨d, a, b, m, h⟩ := (and_maskM4_eq_iff (op := 6) (by decide)).mp h
    exact ⟨.mexp d a b m, h, rfl⟩
  · obtain ⟨d, i, j, h⟩ := (and_maskE3_eq_iff (op := 0x10) (by decide)).mp h
    exact ⟨.ecadd d i j, h, rfl⟩
  · obtain ⟨d, i, h⟩ := (and_maskE2_eq_iff (op := 0x11) (by decide)).mp h
    exact ⟨.ecdbl d i, h, rfl⟩
  · obtain ⟨d, i, k, h⟩ := (and_maskEK_eq_iff (op := 0x12) (by decide)).mp h
    exact ⟨.ecmul d i k, h, rfl⟩
  · obtain ⟨i, h⟩ := (and_maskES_eq_iff (op := 0x13) (by decide)).mp h
    exact ⟨.ecchk i, h, rfl⟩
  · obtain ⟨d, h⟩ := (and_maskED_eq_iff (op := 0x14) (by decide)).mp h
    exact ⟨.ecldsm2 d, h, rfl⟩
  · exact ⟨.sm3init, (and_maskN_eq_iff (op := 0x20) (by decide)).mp h, rfl⟩
  · exact ⟨.sm3blk, (and_maskN_eq_iff (op := 0x21) (by decide)).mp h, rfl⟩
  · obtain ⟨n, h⟩ := (and_maskL_eq_iff (op := 0x22) (by decide)).mp h
    exact ⟨.sm3fin n, h, rfl⟩
  · exact ⟨.sm4key, (and_maskN_eq_iff (op := 0x30) (by decide)).mp h, rfl⟩
  · exact ⟨.sm4enc, (and_maskN_eq_iff (op := 0x31) (by decide)).mp h, rfl⟩
  · exact ⟨.sm4dec, (and_maskN_eq_iff (op := 0x32) (by decide)).mp h, rfl⟩

theorem mem_matchingRows {w : Word} {r : OpcodeRow} :
    r ∈ matchingRows w ↔ r ∈ opcodeRows ∧ w &&& r.mask = r.op := by
  rw [matchingRows, List.mem_filter, beq_iff_eq]

/-- The rows that the word of a command matches: one, of the command's mnemonic. -/
theorem matchingRows_encode (i : Instr) :
    (matchingRows (encode i)).map (·.mnemonic) = [(disassemble i).mnemonic] := by
  have distinct : ((matchingRows (encode i)).map (·.mnemonic)).Nodup :=
    List.Nodup.sublist (List.filter_sublist.map _) (show (opcodeRows.map (·.mnemonic)).Nodup by decide)
  obtain ⟨r, hr, matched, own⟩ := exists_row_of_encode i
  refine List.perm_singleton.mp ((List.perm_ext_iff_of_nodup distinct (List.nodup_singleton _)).mpr fun m => ?_)
  rw [List.mem_map, List.mem_singleton]
  constructor
  · rintro ⟨r', hr', rfl⟩
    obtain ⟨mem, matched'⟩ := mem_matchingRows.mp hr'
    obtain ⟨j, same, hj⟩ := exists_encode_of_row mem matched'
    rw [← hj, encode_injective same]
  · rintro rfl
    exact ⟨r, mem_matchingRows.mpr ⟨hr, matched⟩, own⟩

theorem exists_decode_iff_exists_row {w : Word} :
    (∃ i, decode w = .ok i) ↔ ∃ r ∈ opcodeRows, w &&& r.mask = r.op := by
  constructor
  · rintro ⟨i, hi⟩
    obtain ⟨r, hr, matched, -⟩ := exists_row_of_encode i
    exact ⟨r, hr, encodeInvertsDecode w i hi ▸ matched⟩
  · rintro ⟨r, hr, matched⟩
    obtain ⟨i, hi, -⟩ := exists_encode_of_row hr matched
    exact ⟨i, decode_eq_ok_iff.mpr hi⟩

theorem matchingRows_length_le_one (w : Word) : (matchingRows w).length ≤ 1 := by
  cases h : matchingRows w with
  | nil => exact Nat.zero_le 1
  | cons r rs =>
    obtain ⟨mem, matched⟩ := mem_matchingRows.mp (h ▸ List.mem_cons_self : r ∈ matchingRows w)
    obtain ⟨i, rfl, -⟩ := exists_encode_of_row mem matched
    rw [← h, ← List.length_map (·.mnemonic), matchingRows_encode, List.length_singleton]

/-- An illegal word is latched like any other, and its completion writes only the code 1 (R94, R112). -/
theorem engineTurn_of_illegal {s : State} {w : Word} {e : Illegal} (idle : Idle s) (h : decode w = .error e) :
    engineTurn (hostAccess s (hostWR 0x004 w)) = .next (ended { s with cmdl := w } 1) := by
  obtain ⟨hr, hb⟩ := idle
  have accepted : hostAccess s (hostWR 0x004 w) = accept s w := by
    rw [hostAccess_hostWR hr (r := .cmd) rfl, writeReg, storeIdle, hb, if_neg Bool.false_ne_true]
  rw [accepted, engineTurn, if_pos (by simp [engineReady, hr]), accept_cmdl, h]
  rfl

/-- Settles O3: rows match exactly the words of their commands, and encoding keeps commands apart. -/
theorem legalityIsTheOpcodeMap : Obligations.LegalityIsTheOpcodeMap :=
  ⟨fun _ => exists_decode_iff_exists_row, matchingRows_length_le_one,
    fun w i h => encodeInvertsDecode w i h ▸ matchingRows_encode i, fun _ _ _ => engineTurn_of_illegal⟩

/-! ### Reserved opcodes (R95) -/

/-- The opcodes of R93. -/
theorem opcodeOf_range (i : Instr) : opcodeOf i ≤ 0x06 ∨ (0x10 ≤ opcodeOf i ∧ opcodeOf i ≤ 0x14) ∨
    (0x20 ≤ opcodeOf i ∧ opcodeOf i ≤ 0x22) ∨ (0x30 ≤ opcodeOf i ∧ opcodeOf i ≤ 0x32) := by
  cases i <;> simp [opcodeOf]

theorem opOf_of_decode {w : Word} {i : Instr} (h : decode w = .ok i) : (opOf w).toNat = opcodeOf i := by
  rw [← encodeInvertsDecode w i h]
  exact (opcodeField i).1

/-- Settles O4: a legal word holds an opcode of R93, and the word of NOP is 0. -/
theorem reservedOpcodesAreIllegal : Obligations.ReservedOpcodesAreIllegal := by
  refine ⟨fun w reserved => ?_, fun w h => (encodeInvertsDecode w .nop h).symm⟩
  cases h : decode w with
  | error e => exact ⟨e, rfl⟩
  | ok i =>
    have listed := opcodeOf_range i
    rw [← opOf_of_decode h] at listed
    omega

/-- Settles O5: the decoder evaluated at each word. -/
theorem specWordsDecode : Obligations.SpecWordsDecode := by
  unfold Obligations.SpecWordsDecode
  decide

end Sys2Proof.Proofs.Encoding

/-! PROOF. The assembler against the written forms of R93 (30_encoding.md R93, R97). -/

namespace Sys2Proof.Proofs.Assembler

open Sys2Proof.Proofs.CommandWord

/-! ### Operand ranges (R97) -/

theorem asmV_eq_ok_iff {n : Nat} {i : VReg} : asmV n = .ok i ↔ n = i.val := dite_lt_eq_ok_iff

theorem asmP_eq_ok_iff {n : Nat} {k : PReg} : asmP n = .ok k ↔ n = k.val := dite_lt_eq_ok_iff

theorem asmLen_eq_ok_iff {n : Nat} {l : Len} : asmLen n = .ok l ↔ n = l.val := dite_lt_eq_ok_iff

/-! ### Forms (R93) -/

/-- The form of a command assembles to the command. -/
theorem assemble_disassemble (i : Instr) : assemble (disassemble i) = .ok i := by
  cases i <;> simp [disassemble, assemble, bind_eq_ok_iff, map_eq_ok_iff, asmV_eq_ok_iff, asmP_eq_ok_iff,
    asmLen_eq_ok_iff, Fin.val_inj]

theorem eq_disassemble_of_assemble {f : AsmForm} {i : Instr} (h : assemble f = .ok i) : f = disassemble i := by
  unfold assemble at h
  split at h <;> simp only [bind_eq_ok_iff, pure, Except.pure, Except.ok.injEq, asmV_eq_ok_iff, asmP_eq_ok_iff,
    asmLen_eq_ok_iff, reduceCtorEq] at h
  case h_1 | h_13 | h_14 | h_16 | h_17 | h_18 =>
    obtain rfl := h
    rfl
  case h_11 | h_12 | h_15 =>
    obtain ⟨_, rfl, rfl⟩ := h
    rfl
  case h_9 =>
    obtain ⟨_, rfl, _, rfl, rfl⟩ := h
    rfl
  case h_5 | h_6 | h_8 | h_10 =>
    obtain ⟨_, rfl, _, rfl, _, rfl, rfl⟩ := h
    rfl
  case h_2 | h_3 | h_4 | h_7 =>
    obtain ⟨_, rfl, _, rfl, _, rfl, _, rfl, rfl⟩ := h
    rfl

/-- Settles O6: the range checks give back the indices that the form of the command writes. -/
theorem assemblerTakesExactlyTheForms : Obligations.AssemblerTakesExactlyTheForms :=
  fun _ i => ⟨eq_disassemble_of_assemble, fun h => h ▸ assemble_disassemble i⟩

end Sys2Proof.Proofs.Assembler

/-! PROOF. The lifecycle of a command: accept, the engine's step, completion and errors (40_execution.md R110 to R113,
R117). -/

namespace Sys2Proof.Proofs.Lifecycle

open Sys2Proof.Machine Sys2Proof.Safety Sys2Proof.Statements
open Sys2Proof.Proofs.Commands Sys2Proof.Proofs.Port Sys2Proof.Proofs.Events Sys2Proof.Proofs.Encoding

/-! ### Accept (R110) -/

theorem hostAccess_cmd {s : State} (hr : Running s) (c : Word) :
    hostAccess s (hostWR 0x004 c) = storeIdle s (accept s c) :=
  hostAccess_hostWR hr (r := .cmd) rfl c

/-- Settles O7: a CMD write is a store of `accept`, which BUSY refuses. -/
theorem acceptLatchesTheWord : Obligations.AcceptLatchesTheWord := by
  intro s c hr
  rw [hostAccess_cmd hr]
  exact ⟨fun idle => if_neg (Bool.eq_false_iff.mp idle), fun busy => if_pos busy⟩

/-! ### The engine's turn (R111, R112) -/

theorem engineReady_of_pend {s : State} (hr : Running s) (hp : s.pend = true) : engineReady s = true := by
  rw [engineReady, hr, hp, Bool.and_self]

theorem engineTurn_of_decode_ok {s : State} {i : Instr} (hr : Running s) (hp : s.pend = true)
    (hi : decode s.cmdl = .ok i) : engineTurn s = exec i s := by
  rw [engineTurn, if_pos (engineReady_of_pend hr hp), hi]

theorem engineTurn_of_decode_error {s : State} {e : Illegal} (hr : Running s) (hp : s.pend = true)
    (he : decode s.cmdl = .error e) : engineTurn s = .next (ended s 1) := by
  rw [engineTurn, if_pos (engineReady_of_pend hr hp), he]
  rfl

theorem engineTurn_of_not_pend {s : State} (hp : s.pend = false) : engineTurn s = .next s :=
  if_neg (by rw [engineReady, hp, Bool.and_false]; exact Bool.false_ne_true)

/-- Settles O8: the latch is no event, so it decodes after the event is taken as before. -/
theorem stepRunsTheDecodedCommand : Obligations.StepRunsTheDecodedCommand :=
  fun s rest _ hr hp moves hi => (step_engine moves).trans (engineTurn_of_decode_ok (s := takeInput s rest) hr hp hi)

/-- Settles O9: the engine's turn in the state whose event has been taken. -/
theorem stepCompletesAnIllegalWord : Obligations.StepCompletesAnIllegalWord :=
  fun s rest _ hr hp moves he =>
    (step_engine moves).trans (engineTurn_of_decode_error (s := takeInput s rest) hr hp he)

/-- Settles O10: the turn passes. -/
theorem idleEngineWaits : Obligations.IdleEngineWaits :=
  fun s rest hp moves => (step_engine moves).trans (engineTurn_of_not_pend (s := takeInput s rest) hp)

/-! ### Errors (R113) -/

/-- Settles O13: a success has code 0, and a failure commits the old state, but for the draw counter. -/
theorem commandErrorsArePrecise : Obligations.CommandErrorsArePrecise := by
  intro i s t ht failed
  have completion := exec_completion i s
  rw [ht] at completion
  cases completion with
  | success u keeps => exact absurd (finish_err u 0) failed
  | failure e => rfl
  | drawnFailure e => rfl

/-! ### NOP (R117) -/

theorem eq_nop_of_opcodeOf {i : Instr} (h : Laws.opcodeOf i = 0) : i = .nop := by
  cases i with
  | nop => rfl
  | _ => cases h

/-- A word with OP 0x00 is NOP's word 0 or illegal. -/
theorem decode_of_opOf_zero {w : Word} (hop : opOf w = 0) (hw : w ≠ 0) : ∃ e, decode w = .error e := by
  cases h : decode w with
  | error e => exact ⟨e, rfl⟩
  | ok i =>
    have hi : i = .nop := eq_nop_of_opcodeOf ((opOf_of_decode h).symm.trans (congrArg BitVec.toNat hop))
    exact absurd (reservedOpcodesAreIllegal.2 w (hi ▸ h)) hw

/-- Settles O34: NOP commits the state it found, and with OP 0x00 only its word decodes. -/
theorem nopCompletes : Obligations.NopCompletes := by
  refine ⟨fun s => ⟨rfl, Bool.and_true s.ie⟩, rfl, rfl, fun w hop hw => ?_⟩
  obtain ⟨e, he⟩ := decode_of_opOf_zero hop hw
  exact ⟨⟨e, he⟩, fun s hr hp latched => engineTurn_of_decode_error hr hp (latched ▸ he)⟩

end Sys2Proof.Proofs.Lifecycle

/-! PROOF. Every finite list of events ends with nothing in flight (40_execution.md R115, 70_reset_and_hazards.md
R281). -/

namespace Sys2Proof.Proofs.Termination

open Sys2Proof.Machine Sys2Proof.Safety
open Sys2Proof.Proofs.Commands Sys2Proof.Proofs.Events Sys2Proof.Proofs.Invariant

/-! ### A step takes one event -/

theorem storeIdle_inputs {s t : State} (h : t.inputs = s.inputs) : (storeIdle s t).inputs = s.inputs := by
  obtain ⟨-, ht⟩ | ⟨-, ht⟩ := storeIdle_cases s t
  · rw [ht, accessError_inputs]
  · rw [ht, h]

theorem writeCtrl_inputs (s : State) (w : Word) : (writeCtrl s w).inputs = s.inputs := by
  unfold writeCtrl
  split
  · exact resetRegs_inputs s
  · rfl

theorem writeReg_inputs (s : State) (r : Reg) (w : Word) : (writeReg s r w).inputs = s.inputs := by
  cases r with
  | status | id | sm4Dout | sm4Rk => rfl
  | ctrl => exact writeCtrl_inputs s w
  | curve c j => cases c <;> exact storeIdle_inputs rfl
  | cmd | pinf | sm3Ctl | sm3CntHi | sm3CntLo | v | sm3V | sm3Buf | sm4Key | sm4Din => exact storeIdle_inputs rfl

theorem inputs_of_accessEffect {s t : State} (h : AccessEffect s t) : t.inputs = s.inputs := by
  cases h with
  | answer | readError | error | status | ignored => rfl
  | ctrl w => exact writeCtrl_inputs s w
  | store r w => exact writeReg_inputs s r w

theorem setRstPin_inputs (s : State) (level : Bool) : (setRstPin s level).inputs = s.inputs := by
  cases level <;> rfl

theorem passed_or_completed {s t : State} (h : engineTurn s = .next t) :
    (engineReady s = false ∧ t = s) ∨ Completed s t := by
  obtain ⟨waits, passes⟩ | ⟨-, completion⟩ := engineTurn_cases s
  · exact .inl ⟨waits, Host.Outcome.next.inj (h.symm.trans passes)⟩
  · obtain ⟨u, hu, completed⟩ := completion_completed completion
    obtain rfl : u = t := Host.Outcome.next.inj (hu.symm.trans h)
    exact .inr completed

theorem engineTurn_inputs {s t : State} (h : engineTurn s = .next t) : t.inputs = s.inputs := by
  obtain ⟨-, rfl⟩ | completed := passed_or_completed h
  · rfl
  · exact completed.inputs

theorem step_inputs {s t : State} (h : step s = .next t) : t.inputs = s.inputs.tail := by
  obtain ⟨rest, moves, turn⟩ | ⟨x, rest, event, rfl⟩ | ⟨level, rest, event, rfl⟩ := step_next h
  · have taken : t.inputs = rest := engineTurn_inputs turn
    obtain event | ⟨event, rfl⟩ := moves
    · rw [taken, event, List.tail_cons]
    · rw [taken, event, List.tail_nil]
  · rw [inputs_of_accessEffect (hostAccess_effect _ x), event]
    exact List.tail_cons.symm
  · rw [setRstPin_inputs, event]
    exact List.tail_cons.symm

/-! ### The last step -/

/-- A command in flight waits for no more than its turn: SMCORE held in reset has none (R272). -/
theorem pend_of_not_engineReady {s : State} (held : ResetIsHeld s) (h : engineReady s = false) : s.pend = false := by
  cases hr : s.rstN with
  | true => rwa [engineReady, hr, Bool.true_and] at h
  | false => exact (congrArg State.pend (held hr)).symm

theorem pend_engineTurn {s t : State} (held : ResetIsHeld s) (h : engineTurn s = .next t) : t.pend = false := by
  obtain ⟨waits, rfl⟩ | completed := passed_or_completed h
  · exact pend_of_not_engineReady held waits
  · exact completed.pend

theorem ended_of_step {s t : State} (h : Consistent s) (noEvent : s.inputs = []) (ht : step s = .next t) :
    Ended t := by
  obtain ⟨-, -, -, -, held⟩ := consistent_inputs_reply h [] none
  rw [step_engine (.inr ⟨noEvent, rfl⟩)] at ht
  exact ⟨engineTurn_inputs ht, pend_engineTurn held ht⟩

/-! ### A run -/

theorem run_succ {M : Host.Core} {s t : M.State} (h : M.step s = .next t) (k : Nat) :
    M.run (k + 1) s = M.run k t := by
  simp only [Host.Core.run, h]

theorem run_ends {l : List Input} {s : State} (h : Consistent s) (hl : s.inputs = l) :
    ∃ t, Host.Core.run core (l.length + 1) s = .next t ∧ Ended t := by
  induction l generalizing s with
  | nil =>
    obtain ⟨t, ht⟩ := exists_step_next s
    exact ⟨t, run_succ (M := core) ht 0, ended_of_step h hl ht⟩
  | cons x rest ih =>
    obtain ⟨u, hu⟩ := exists_step_next s
    have hrest : u.inputs = rest := by rw [step_inputs hu, hl, List.tail_cons]
    obtain ⟨t, ht, done⟩ := ih (stepKeepsConsistent s u h hu) hrest
    exact ⟨t, (run_succ (M := core) hu _).trans ht, done⟩

/-- Settles O14: one step for each event, and one for the command that is then in flight. -/
theorem finiteInputsEndIdle : Obligations.FiniteInputsEndIdle := fun _ h => run_ends h rfl

end Sys2Proof.Proofs.Termination

/-! PROOF. Modular arithmetic (41_bigint_modular.md R130 to R137): each command but MINV reduces one exact integer into
its destination, and MINV writes the inverse. -/

namespace Sys2Proof.Proofs.ModularArithmetic

open Sys2Proof.Machine Sys2Proof.Statements
open Sys2Proof.Proofs.CommandWord Sys2Proof.Proofs.DataRegisters

/-! ### The common end of the commands (R130) -/

/-- The completion that writes the exact integer `x` modulo `m` to V[vd], or ends with the error of a zero modulus. -/
def reduceInto (s : State) (vd : VReg) (x : Int) (m : Big) : Host.Outcome State Fault Refusal :=
  .next (commit s (storeV s vd (reduced x m.toNat)))

theorem reduceInto_zero (s : State) (vd : VReg) (x : Int) {m : Big} (hm : m = 0) :
    reduceInto s vd x m = .next (ended s 2) := by
  rw [reduceInto, toNat_eq_zero_iff.mpr hm, reduced_zero]
  rfl

theorem reduceInto_of_ne (s : State) (vd : VReg) (x : Int) {m : Big} (hm : m ≠ 0) :
    ∃ r : Big, (r.toNat : Int) = x % (m.toNat : Int) ∧
      reduceInto s vd x m = .next (ended { s with v := s.v.set vd r } 0) := by
  have hm0 := toNat_eq_zero_iff.not.mpr hm
  refine ⟨BitVec.ofNat 256 (modNat x m.toNat), ?_, ?_⟩
  · rw [ofNat_toNat_of_lt_big m (modNat_lt x hm0), modNat_cast x hm0]
  · rw [reduceInto, reduced_of_ne x hm0]
    rfl

theorem reduceInto_natCast_of_ne (s : State) (vd : VReg) (n : Nat) {m : Big} (hm : m ≠ 0) :
    ∃ r : Big, r.toNat = n % m.toNat ∧ reduceInto s vd n m = .next (ended { s with v := s.v.set vd r } 0) := by
  obtain ⟨r, hr, completes⟩ := reduceInto_of_ne s vd n hm
  exact ⟨r, by exact_mod_cast hr, completes⟩

/-- What V[vd] holds after a non-negative integer has been reduced into it. -/
theorem reduceInto_natCast_reads (s : State) (vd : VReg) (n : Nat) {m : Big} (hm : m ≠ 0) :
    ∃ t, reduceInto s vd n m = .next t ∧ (t.v[vd]).toNat = n % m.toNat := by
  obtain ⟨r, hr, completes⟩ := reduceInto_natCast_of_ne s vd n hm
  exact ⟨_, completes, by rw [getElem_set_self, hr]⟩

/-- Only the class of the integer modulo `m` counts. -/
theorem reduceInto_congr (s : State) (vd : VReg) {x y : Int} {m : Big} (h : x ≡ y [ZMOD m.toNat]) :
    reduceInto s vd x m = reduceInto s vd y m := by
  have same : modNat x m.toNat = modNat y m.toNat := congrArg Int.toNat h
  rw [reduceInto, reduceInto, reduced, reduced, same]

/-! ### The integer that each command reduces (R131 to R134, R136) -/

theorem exec_madd (vd va vb vm : VReg) (s : State) :
    exec (.madd vd va vb vm) s = reduceInto s vd ((s.v[va].toNat + s.v[vb].toNat : Nat) : Int) s.v[vm] := rfl

theorem exec_msub (vd va vb vm : VReg) (s : State) :
    exec (.msub vd va vb vm) s = reduceInto s vd ((s.v[va].toNat : Int) - s.v[vb].toNat) s.v[vm] := rfl

theorem exec_mmul (vd va vb vm : VReg) (s : State) :
    exec (.mmul vd va vb vm) s = reduceInto s vd ((s.v[va].toNat * s.v[vb].toNat : Nat) : Int) s.v[vm] := rfl

theorem exec_mred (vd va vm : VReg) (s : State) :
    exec (.mred vd va vm) s = reduceInto s vd (s.v[va].toNat : Int) s.v[vm] := rfl

/-- MEXP's squarings reduce along the way and give the exact power reduced once. -/
theorem powResult_eq_reduced (a : Nat) (e : Big) (m : Nat) :
    powResult a e.toNat m = reduced ((a ^ e.toNat : Nat) : Int) m := by
  rw [powResult, reduced, powMod_eq a m e.isLt, modNat_natCast]

theorem exec_mexp (vd va ve vm : VReg) (s : State) :
    exec (.mexp vd va ve vm) s = reduceInto s vd ((s.v[va].toNat ^ s.v[ve].toNat : Nat) : Int) s.v[vm] := by
  rw [reduceInto, ← powResult_eq_reduced]
  rfl

/-- Settles O35: the sum is reduced once. -/
theorem maddWritesTheSum : Obligations.MaddWritesTheSum := by
  intro vd va vb vm s
  rw [exec_madd]
  exact ⟨rfl, reduceInto_zero s vd _, reduceInto_natCast_of_ne s vd _⟩

/-- Settles O36: the integer difference is reduced once, to a remainder that is not negative. -/
theorem msubWritesTheDifference : Obligations.MsubWritesTheDifference := by
  intro vd va vb vm s
  rw [exec_msub]
  exact ⟨rfl, reduceInto_zero s vd _, reduceInto_of_ne s vd _⟩

/-- Settles O37: the product is reduced once. -/
theorem mmulWritesTheProduct : Obligations.MmulWritesTheProduct := by
  intro vd va vb vm s
  rw [exec_mmul]
  exact ⟨rfl, reduceInto_zero s vd _, reduceInto_natCast_of_ne s vd _⟩

/-- Settles O38: the operand itself is reduced. -/
theorem mredWritesTheRemainder : Obligations.MredWritesTheRemainder := by
  intro vd va vm s
  rw [exec_mred]
  exact ⟨rfl, reduceInto_zero s vd _, reduceInto_natCast_of_ne s vd _⟩

/-- Settles O40: the exact power is reduced, as every exponent has at most 256 bits. -/
theorem mexpWritesThePower : Obligations.MexpWritesThePower := by
  intro vd va ve vm s
  rw [exec_mexp]
  exact ⟨rfl, reduceInto_zero s vd _, reduceInto_natCast_of_ne s vd _⟩

/-! ### The inverse (R135) -/

theorem exec_minv (vd va vm : VReg) (s : State) :
    exec (.minv vd va vm) s = .next (commit s (storeV s vd (inverseResult s.v[va].toNat s.v[vm].toNat))) := rfl

/-- MINV with a modulus to which the operand is prime. -/
theorem exec_minv_of_gcd (vd va vm : VReg) {s : State} (hm : s.v[vm] ≠ 0)
    (hg : Nat.gcd (s.v[va].toNat % s.v[vm].toNat) s.v[vm].toNat = 1) :
    ∃ r : Big, (r.toNat < s.v[vm].toNat ∧ s.v[va].toNat * r.toNat % s.v[vm].toNat = 1 % s.v[vm].toNat) ∧
      exec (.minv vd va vm) s = .next (ended { s with v := s.v.set vd r } 0) := by
  have hm0 := toNat_eq_zero_iff.not.mpr hm
  have inverse := modInverse_spec hm0 hg
  refine ⟨BitVec.ofNat 256 (modInverse s.v[va].toNat s.v[vm].toNat), ?_, ?_⟩
  · rwa [ofNat_toNat_of_lt_big s.v[vm] inverse.1]
  · rw [exec_minv, inverseResult, if_neg hm0, if_neg (not_not.mpr hg)]
    rfl

/-- Settles O39: the result by its case, and two inverses below the modulus are equal. -/
theorem minvWritesTheInverse : Obligations.MinvWritesTheInverse := by
  refine fun vd va vm s => ⟨rfl, fun hm => ?_, fun hm hg => ?_, fun hm hg => ?_⟩
  · rw [exec_minv, inverseResult, if_pos (toNat_eq_zero_iff.mpr hm)]
    rfl
  · rw [exec_minv, inverseResult, if_neg (toNat_eq_zero_iff.not.mpr hm), if_pos hg]
    rfl
  · obtain ⟨r, ⟨below, inverse⟩, completes⟩ := exec_minv_of_gcd vd va vm hm hg
    exact ⟨r, ⟨below, inverse⟩, fun x hx hax => inverse_unique hx below hax inverse, completes⟩

/-! ### The laws of the family (R137) -/

theorem exec_madd_comm (vd va vb vm : VReg) (s : State) :
    exec (.madd vd va vb vm) s = exec (.madd vd vb va vm) s := by
  rw [exec_madd, exec_madd, Nat.add_comm]

/-- The complement of `b` modulo `m` stands in the class of `-b`. -/
theorem exec_msub_eq_exec_madd (vd va vb vc vm : VReg) (s : State) (hm : s.v[vm] ≠ 0)
    (hc : s.v[vc].toNat = s.v[vm].toNat - s.v[vb].toNat % s.v[vm].toNat) :
    exec (.msub vd va vb vm) s = exec (.madd vd va vc vm) s := by
  have le : s.v[vb].toNat % s.v[vm].toNat ≤ s.v[vm].toNat :=
    (Nat.mod_lt _ (Nat.pos_of_ne_zero (toNat_eq_zero_iff.not.mpr hm))).le
  have complement : (s.v[vc].toNat : Int) ≡ 0 - s.v[vb].toNat [ZMOD s.v[vm].toNat] := by
    rw [hc, Nat.cast_sub le, Int.natCast_mod]
    exact Int.ModEq.sub (Int.modEq_zero_iff_dvd.mpr dvd_rfl) (Int.mod_modEq _ _)
  rw [exec_msub, exec_madd, Nat.cast_add, sub_eq_add_neg, ← zero_sub]
  exact reduceInto_congr s vd (complement.symm.add_left _)

theorem exec_mred_eq_exec_madd (vd va vz vm : VReg) (s : State) (hz : s.v[vz] = 0) :
    exec (.mred vd va vm) s = exec (.madd vd va vz vm) s := by
  rw [exec_mred, exec_madd, toNat_eq_zero_iff.mpr hz, Nat.add_zero]

/-- MINV keeps the operand and the modulus when it writes another register, and MMUL reads what MINV wrote. -/
theorem exec_mmul_of_exec_minv (vd vi va vm : VReg) (s : State) (ha : vi ≠ va) (hvm : vi ≠ vm) (hm : s.v[vm] ≠ 0)
    (hg : Nat.gcd s.v[va].toNat s.v[vm].toNat = 1) : ∃ t u, exec (.minv vi va vm) s = .next t ∧
      exec (.mmul vd va vi vm) t = .next u ∧ (u.v[vd]).toNat = 1 % s.v[vm].toNat := by
  rw [Nat.gcd_comm, Nat.gcd_rec] at hg
  obtain ⟨r, ⟨-, inverse⟩, completes⟩ := exec_minv_of_gcd vi va vm hm hg
  obtain ⟨u, hu, reads⟩ := reduceInto_natCast_reads (ended { s with v := s.v.set vi r } 0) vd
    (s.v[va].toNat * r.toNat) hm
  refine ⟨_, u, completes, ?_, reads.trans inverse⟩
  rw [exec_mmul, getElem_set_ne s.v r ha.symm, getElem_set_ne s.v r hvm.symm, getElem_set_self, hu]

theorem exec_mexp_add (vd va v1 v2 v3 vm : VReg) (s : State) (hm : s.v[vm] ≠ 0)
    (h3 : s.v[v3].toNat = s.v[v1].toNat + s.v[v2].toNat) :
    ∃ t1 t2 t3, exec (.mexp vd va v1 vm) s = .next t1 ∧ exec (.mexp vd va v2 vm) s = .next t2 ∧
      exec (.mexp vd va v3 vm) s = .next t3 ∧
      (t3.v[vd]).toNat = (t1.v[vd]).toNat * (t2.v[vd]).toNat % s.v[vm].toNat := by
  simp only [exec_mexp]
  obtain ⟨t1, ht1, reads1⟩ := reduceInto_natCast_reads s vd (s.v[va].toNat ^ s.v[v1].toNat) hm
  obtain ⟨t2, ht2, reads2⟩ := reduceInto_natCast_reads s vd (s.v[va].toNat ^ s.v[v2].toNat) hm
  obtain ⟨t3, ht3, reads3⟩ := reduceInto_natCast_reads s vd (s.v[va].toNat ^ s.v[v3].toNat) hm
  refine ⟨t1, t2, t3, ht1, ht2, ht3, ?_⟩
  rw [reads1, reads2, reads3, h3, Nat.pow_add, Nat.mul_mod]

/-- Settles O41: the five laws. -/
theorem arithmeticLawsOfR137 : Obligations.ArithmeticLawsOfR137 :=
  ⟨exec_madd_comm, exec_msub_eq_exec_madd, exec_mred_eq_exec_madd, exec_mmul_of_exec_minv, exec_mexp_add⟩

end Sys2Proof.Proofs.ModularArithmetic

/-! PROOF. The group law on a valid domain (42_ec_point.md R151 to R153, R162): results are valid points, `ecAdd` is the
sum by congruences, and double-and-add is the k-fold sum. -/

namespace Sys2Proof.Proofs.GroupLaw

open Sys2Proof.Machine Sys2Proof.Statements Sys2Proof.Laws

/-! ### Results are valid points (R151 to R153) -/

theorem validPointOf_ecAdd {p a b : Nat} {q r : Point} (h256 : p < 2 ^ 256) (hd : validDomainOf p a b = true)
    (hq : validPointOf p a b q = true) (hr : validPointOf p a b r = true) :
    validPointOf p a b (ecAdd p a q r) = true := by
  have prime : Fact p.Prime := ⟨domain_prime hd⟩
  obtain ⟨q', hq'⟩ := represents_of_valid hd hq
  obtain ⟨r', hr'⟩ := represents_of_valid hd hr
  exact valid_of_represents prime.out (represents_add (domain_gt_three hd) h256 hq' hr')

/-- Settles O46: the sum stands for a point of Mathlib's curve, and the double is the sum of a point with itself. -/
theorem pointResultsLieOnTheCurve : Obligations.PointResultsLieOnTheCurve := by
  intro p a b q r h256 hd hq hr
  refine ⟨validPointOf_ecAdd h256 hd hq hr, ?_⟩
  rw [← ecAdd_self]
  exact validPointOf_ecAdd h256 hd hq hq

/-! ### The sum by congruences (R153) -/

/-- A quotient by `inv` solves its congruence, for a divisor that is not 0 modulo p. -/
theorem quotient_modEq {p : Nat} (hp : p.Prime) (n : Int) {d : Int} (hd : ¬ (p : Int) ∣ d) :
    (modNat (n * modInverse (modNat d p) p) p : Int) * d ≡ n [ZMOD p] := by
  have prime : Fact p.Prime := ⟨hp⟩
  have hd0 : (d : ZMod p) ≠ 0 := fun h => hd ((ZMod.intCast_zmod_eq_zero_iff_dvd d p).mp h)
  rw [← ZMod.intCast_eq_intCast_iff]
  push_cast
  rw [modNat_class _ hp, Int.cast_mul, Int.cast_natCast, inverse_class hp d hd0]
  exact inv_mul_cancel_right₀ hd0 _

/-- Different reduced abscissas differ modulo p. -/
theorem not_dvd_sub {p x1 x2 : Nat} (h1 : x1 < p) (h2 : x2 < p) (hne : x1 ≠ x2) : ¬ (p : Int) ∣ (x2 : Int) - x1 :=
  fun h => hne (Nat.ModEq.eq_of_lt_of_lt (Nat.modEq_iff_dvd.mpr h) h1 h2)

/-- Twice a reduced ordinate that is not 0 is not 0 modulo p, as p is odd. -/
theorem not_dvd_two_mul {p y : Nat} (hp : p.Prime) (h3 : 3 < p) (hy : y < p) (hy0 : y ≠ 0) :
    ¬ (p : Int) ∣ 2 * (y : Int) := by
  intro h
  rcases (hp.dvd_mul (m := 2)).mp (by exact_mod_cast h) with h | h
  · exact absurd (Nat.le_of_dvd two_pos h) (by omega)
  · exact absurd (Nat.le_of_dvd (Nat.pos_of_ne_zero hy0) h) (by omega)

/-- The third point of a line has the coordinates of R153, reduced. -/
theorem thirdPoint_modEq {p : Nat} (hp : p ≠ 0) (l x1 y1 x2 : Nat) :
    ∃ x3 y3 : Nat, thirdPoint p l x1 y1 x2 = .affine (BitVec.ofNat 256 x3) (BitVec.ofNat 256 y3) ∧ x3 < p ∧ y3 < p ∧
      (x3 : Int) ≡ (l : Int) ^ 2 - x1 - x2 [ZMOD p] ∧ (y3 : Int) ≡ (l : Int) * ((x1 : Int) - x3) - y1 [ZMOD p] :=
  ⟨_, _, rfl, modNat_lt _ hp, modNat_lt _ hp, modNat_modEq _ hp, modNat_modEq _ hp⟩

/-- The chord through points of different abscissas gives their sum. -/
theorem isSum_chord {p a : Nat} (hp : p.Prime) {x1 y1 x2 y2 : Big} (hx1 : x1.toNat < p) (hx2 : x2.toNat < p)
    (hne : x1 ≠ x2) : IsSum p a (.affine x1 y1) (.affine x2 y2)
      (thirdPoint p (chordSlope p x1.toNat y1.toNat x2.toNat y2.toNat) x1.toNat y1.toNat x2.toNat) := by
  obtain ⟨x3, y3, point, hx3, hy3, coordinates⟩ := thirdPoint_modEq hp.ne_zero
    (chordSlope p x1.toNat y1.toNat x2.toNat y2.toNat) x1.toNat y1.toNat x2.toNat
  have slope := quotient_modEq hp ((y2.toNat : Int) - y1.toNat)
    (not_dvd_sub hx1 hx2 fun h => hne (BitVec.eq_of_toNat_eq h))
  simp only [IsSum, hne, false_and, if_false]
  exact ⟨_, x3, y3, point, modNat_lt _ hp.ne_zero, hx3, hy3, slope, coordinates⟩

/-- The tangent at a point whose ordinate is not 0 gives its sum with itself. -/
theorem isSum_tangent {p a : Nat} (hp : p.Prime) (h3 : 3 < p) {x y : Big} (hy : y.toNat < p) (hy0 : y.toNat ≠ 0) :
    IsSum p a (.affine x y) (.affine x y)
      (thirdPoint p (tangentSlope p a x.toNat y.toNat) x.toNat y.toNat x.toNat) := by
  obtain ⟨x3, y3, point, hx3, hy3, coordinates⟩ := thirdPoint_modEq hp.ne_zero (tangentSlope p a x.toNat y.toNat)
    x.toNat y.toNat x.toNat
  have slope := quotient_modEq hp (3 * (x.toNat : Int) ^ 2 + a) (not_dvd_two_mul hp h3 hy hy0)
  simp only [IsSum, hy0, ne_eq, not_false_eq_true, and_self, not_true_eq_false, and_false, if_false, if_true]
  exact ⟨_, x3, y3, point, modNat_lt _ hp.ne_zero, hx3, hy3, slope, coordinates⟩

/-- On a valid domain `ecAdd` of two valid points is their sum: by the chord, by the tangent, or O. -/
theorem isSum_ecAdd {p a b : Nat} {q r : Point} (hd : validDomainOf p a b = true) (hq : validPointOf p a b q = true)
    (hr : validPointOf p a b r = true) : IsSum p a q r (ecAdd p a q r) := by
  have hp := domain_prime hd
  cases q with
  | inf => exact rfl
  | affine x1 y1 =>
    cases r with
    | inf => exact rfl
    | affine x2 y2 =>
      simp only [validPointOf, Bool.and_eq_true, decide_eq_true_eq] at hq hr
      obtain ⟨⟨hx1, hy1⟩, -⟩ := hq
      obtain ⟨⟨hx2, -⟩, -⟩ := hr
      by_cases hx : x1 = x2
      · subst hx
        by_cases hy : y1 = y2 ∧ y1.toNat ≠ 0
        · obtain ⟨rfl, hy0⟩ := hy
          rw [ecAdd_self, ecDbl, if_neg hy0]
          exact isSum_tangent hp (domain_gt_three hd) hy1 hy0
        · simp only [IsSum, ecAdd, true_and, hy, if_true, if_false, not_false_eq_true]
      · rw [ecAdd, if_neg hx]
        exact isSum_chord hp hx1 hx2 hx

/-! ### Double-and-add (R162) -/

theorem bit_testBit_shiftRight (k n : Nat) : Nat.bit (k.testBit n) (k >>> (n + 1)) = k >>> n := by
  have h := Nat.bit_testBit_zero_shiftRight_one (k >>> n)
  rwa [Nat.testBit_shiftRight, ← Nat.shiftRight_add] at h

section Multiples
variable {p a b : Nat} [Fact p.Prime] {pt : Point} {r : (curveOf p a b).Point}

theorem represents_ecMul (h3 : 3 < p) (h256 : p < 2 ^ 256) (hpt : Represents p a b pt r) (k : Nat) :
    Represents p a b (ecMul p a k pt) (k • r) := by
  induction k with
  | zero => exact zero_nsmul r
  | succ k ih =>
    rw [succ_nsmul]
    exact represents_add h3 h256 ih hpt

/-- One pass doubles the multiple held, and adds the point for a bit 1. -/
theorem represents_ladderStep (h3 : 3 < p) (h256 : p < 2 ^ 256) (hpt : Represents p a b pt r) {q : Point} {m : Nat}
    (hq : Represents p a b q (m • r)) (bit : Bool) :
    Represents p a b (ladderStep p a pt q bit) (Nat.bit bit m • r) := by
  have double : Represents p a b (ecDbl p a q) ((2 * m) • r) := by
    rw [two_mul, add_nsmul, ← ecAdd_self]
    exact represents_add h3 h256 hq hq
  cases bit with
  | false => exact double
  | true =>
    rw [Nat.bit_true_apply, succ_nsmul]
    exact represents_add h3 h256 double hpt

/-- From the multiple by the bits of `k` above the low `n`, the passes over these reach the multiple by `k`. -/
theorem represents_ladder (h3 : 3 < p) (h256 : p < 2 ^ 256) (hpt : Represents p a b pt r) (k n : Nat) {q : Point}
    (hq : Represents p a b q ((k >>> n) • r)) : Represents p a b (ladder p a k pt n q) (k • r) := by
  induction n generalizing q with
  | zero => exact hq
  | succ n ih =>
    refine ih ?_
    rw [← bit_testBit_shiftRight]
    exact represents_ladderStep h3 h256 hpt hq _

end Multiples

/-- Settles O47: both stand for the same multiple in Mathlib's group of points. -/
theorem doubleAndAddIsTheKFoldSum : Obligations.DoubleAndAddIsTheKFoldSum := by
  intro p a b k q h256 hk hd hq
  have prime : Fact p.Prime := ⟨domain_prime hd⟩
  have h3 := domain_gt_three hd
  obtain ⟨r, hr⟩ := represents_of_valid hd hq
  have start : Represents p a b .inf ((k >>> 256) • r) := by
    rw [Nat.shiftRight_eq_zero k 256 hk]
    exact zero_nsmul r
  exact represents_unique (represents_ladder h3 h256 hr k 256 start) (represents_ecMul h3 h256 hr k)

/-- The passes over the low `n` bits, as R162 lists them from bit n − 1 down. -/
theorem ladder_eq_foldl (p a k : Nat) (pt : Point) (n : Nat) (q : Point) :
    ladder p a k pt n q = (List.range n).reverse.foldl (fun q i => ladderStep p a pt q (k.testBit i)) q := by
  induction n generalizing q with
  | zero => rfl
  | succ n ih => rw [ladder, ih, List.range_succ, List.reverse_concat, List.foldl_cons]

end Sys2Proof.Proofs.GroupLaw

/-! PROOF. The EC commands (42_ec_point.md R154 to R161, R163). -/

namespace Sys2Proof.Proofs.EcCommands

open Sys2Proof.Machine Sys2Proof.Statements Sys2Proof.Laws
open Sys2Proof.Proofs.CommandWord Sys2Proof.Proofs.DataRegisters Sys2Proof.Proofs.GroupLaw

/-! ### Writing a point result (R154) -/

theorem writePoint_xReg (s : State) (k : PReg) (r : Point) : (writePoint s k r).v[xReg k] = pointX r := by
  rw [writePoint_v, getElem_set_ne _ _ (xReg_ne_yReg k k), getElem_set_self]

theorem writePoint_yReg (s : State) (k : PReg) (r : Point) : (writePoint s k r).v[yReg k] = pointY r := by
  rw [writePoint_v, getElem_set_self]

theorem infBit_writePoint (s : State) (k : PReg) (r : Point) : infBit (writePoint s k r) k = pointInf r := by
  rw [infBit, writePoint_pinf, getLsbD_setInfBit, if_pos rfl]

theorem readPoint_writePoint (s : State) (k : PReg) (r : Point) : readPoint (writePoint s k r) k = r := by
  rw [readPoint, infBit_writePoint, writePoint_xReg, writePoint_yReg]
  cases r <;> rfl

/-- Settles O42: each register and infinity bit after the write. -/
theorem writePointReadsBack : Obligations.WritePointReadsBack := by
  refine fun s k r => ⟨readPoint_writePoint s k r, ?_, fun l hl => ?_, fun i hx hy => ?_⟩
  · rintro rfl
    exact ⟨writePoint_xReg s k .inf, writePoint_yReg s k .inf⟩
  · rw [writePoint_pinf, getLsbD_setInfBit, if_neg hl]
  · rw [writePoint_v, getElem_set_ne _ _ hy, getElem_set_ne _ _ hx]

/-! ### Valid domain and valid points (R151, R152) -/

theorem validDomain_iff (s : State) : validDomain s = true ↔ VD s := validDomainOf_iff _ _ _

theorem modNat_eq_zero_iff (x : Int) {m : Nat} (hm : m ≠ 0) : modNat x m = 0 ↔ x % (m : Int) = 0 := by
  rw [← modNat_cast x hm, Int.natCast_eq_zero]

theorem validPoint_iff (s : State) (k : PReg) : validPoint s k = true ↔ VP s k := by
  unfold validPoint readPoint VP infBit
  cases s.pinf.getLsbD k.val with
  | true => simp [validPointOf]
  | false =>
    simp only [validPointOf, curveDefect, Bool.false_eq_true, if_false, false_or, Bool.and_eq_true, decide_eq_true_eq,
      and_assoc, sub_sub, add_assoc]
    refine and_congr_right fun hx => and_congr_right fun _ => modNat_eq_zero_iff _ ?_
    exact Nat.ne_zero_of_lt hx

/-! ### Completion of a point command (R153 to R155) -/

/-- On invalid inputs the draw, whatever it is, gives one of the three outcomes of R155. -/
theorem isDraw_completePoint {s : State} {valid : Bool} {V : Prop} (hv : valid = true ↔ V) (invalid : ¬ V) (pd : PReg)
    (r : Point) : IsDraw s pd (completePoint s valid pd r) := by
  rw [completePoint, if_neg (invalid ∘ hv.mp)]
  cases Config.ecDraw s.draws with
  | success q => exact .inl ⟨q, rfl⟩
  | modZero => exact .inr (.inl rfl)
  | notInvertible => exact .inr (.inr rfl)

theorem pair_valid_iff (s : State) (p1 p2 : PReg) :
    (validDomain s && validPoint s p1 && validPoint s p2) = true ↔ VD s ∧ VP s p1 ∧ VP s p2 := by
  rw [Bool.and_eq_true, Bool.and_eq_true, validDomain_iff, validPoint_iff, validPoint_iff, and_assoc]

theorem single_valid_iff (s : State) (p1 : PReg) : (validDomain s && validPoint s p1) = true ↔ VD s ∧ VP s p1 := by
  rw [Bool.and_eq_true, validDomain_iff, validPoint_iff]

/-! ### ECADD (R156) -/

theorem exec_ecadd (pd p1 p2 : PReg) (s : State) : exec (.ecadd pd p1 p2) s =
    .next (completePoint s (validDomain s && validPoint s p1 && validPoint s p2) pd
      (ecAdd (p s) (a s) (readPoint s p1) (readPoint s p2))) := rfl

/-- Settles O43: valid inputs give the sum, and invalid ones a draw. -/
theorem ecaddWritesTheSum : Obligations.EcaddWritesTheSum := by
  refine fun pd p1 p2 s => ⟨rfl, fun hd h1 h2 => ?_, fun invalid => ?_⟩
  · have sum := isSum_ecAdd ((validDomain_iff s).mpr hd) ((validPoint_iff s p1).mpr h1) ((validPoint_iff s p2).mpr h2)
    refine ⟨_, sum, ?_⟩
    rw [exec_ecadd, (pair_valid_iff s p1 p2).mpr ⟨hd, h1, h2⟩]
    rfl
  · exact ⟨_, exec_ecadd pd p1 p2 s, isDraw_completePoint (pair_valid_iff s p1 p2) invalid pd _⟩

/-! ### ECDBL (R157) -/

/-- ECDBL is ECADD of a point register with itself, on every input (R163). -/
theorem exec_ecadd_self (pd p1 : PReg) (s : State) : exec (.ecadd pd p1 p1) s = exec (.ecdbl pd p1) s := by
  rw [exec_ecadd, ecAdd_self, Bool.and_assoc, Bool.and_self]
  rfl

/-- Settles O44: ECDBL is ECADD of the point with itself. -/
theorem ecdblWritesTheDouble : Obligations.EcdblWritesTheDouble := by
  intro pd p1 s
  obtain ⟨-, sum, draw⟩ := ecaddWritesTheSum pd p1 p1 s
  rw [exec_ecadd_self] at sum draw
  exact ⟨rfl, fun hd h1 => sum hd h1 h1, fun invalid => draw fun ⟨hd, h1, _⟩ => invalid ⟨hd, h1⟩⟩

/-! ### ECMUL (R158) -/

theorem exec_ecmul (pd p1 : PReg) (vk : VReg) (s : State) : exec (.ecmul pd p1 vk) s =
    .next (completePoint s (validDomain s && validPoint s p1) pd
      (ecMulRef (p s) (a s) s.v[vk].toNat (readPoint s p1))) := rfl

theorem exec_ecmul_of_valid (pd p1 : PReg) (vk : VReg) {s : State} (hd : VD s) (h1 : VP s p1) :
    exec (.ecmul pd p1 vk) s =
      .next (ended (writePoint s pd (ecMulRef (p s) (a s) s.v[vk].toNat (readPoint s p1))) 0) := by
  rw [exec_ecmul, (single_valid_iff s p1).mpr ⟨hd, h1⟩]
  rfl

/-- Settles O45: the passes of the loop in the order of R162. -/
theorem ecmulRunsTheReference : Obligations.EcmulRunsTheReference := by
  refine fun pd p1 vk s => ⟨rfl, fun hd h1 => ?_, fun invalid => ?_⟩
  · rw [exec_ecmul_of_valid pd p1 vk hd h1, ecMulRef, ladder_eq_foldl]
    rfl
  · exact ⟨_, exec_ecmul pd p1 vk s, isDraw_completePoint (single_valid_iff s p1) invalid pd _⟩

/-! ### ECCHK (R159) -/

theorem chkBits_getLsbD (onCurve rangeOk notInf : Bool) : (chkBits onCurve rangeOk notInf).getLsbD 0 = notInf ∧
    (chkBits onCurve rangeOk notInf).getLsbD 1 = rangeOk ∧ (chkBits onCurve rangeOk notInf).getLsbD 2 = onCurve := by
  revert onCurve rangeOk notInf
  decide

theorem exec_ecchk (k : PReg) (s : State) : exec (.ecchk k) s =
    .next (commit s (if s.cp = 0 then .error .modZero else .ok { s with chk := checkPoint s k })) := rfl

/-- Settles O49: the three bits of the value written, each by its test. -/
theorem ecchkWritesTheThreeBits : Obligations.EcchkWritesTheThreeBits := by
  refine fun k s => ⟨rfl, fun hcp => ?_, fun hcp => ⟨checkPoint s k, ?_, ?_⟩⟩
  · rw [exec_ecchk, if_pos hcp]
    rfl
  · rw [exec_ecchk, if_neg hcp]
    rfl
  · obtain ⟨notInf, range, curve⟩ := chkBits_getLsbD (onCurve s (vNat s (xReg k)) (vNat s (yReg k)))
      (rangeOk s (vNat s (xReg k)) (vNat s (yReg k))) (!infBit s k)
    rw [checkPoint, notInf, range, curve]
    refine ⟨?_, ?_, ?_⟩
    · rw [Bool.not_eq_true', infBit]
    · rw [rangeOk, Bool.and_eq_true, decide_eq_true_iff, decide_eq_true_iff]
      rfl
    · rw [onCurve, decide_eq_true_iff]
      exact modNat_eq_zero_iff _ (toNat_eq_zero_iff.not.mpr hcp)

/-! ### ECLDSM2 (R161) -/

theorem exec_ecldsm2 (pd : PReg) (s : State) : exec (.ecldsm2 pd) s =
    .next (ended (writePoint (loadSm2Curve s) pd (.affine sm2Gx sm2Gy)) 0) := rfl

section Sm2Curve
variable {u : State} (hcp : u.cp = sm2P) (hca : u.ca = sm2A) (hcb : u.cb = sm2B)
include hcp hca hcb

theorem vd_of_sm2 : VD u := by
  rw [← validDomain_iff, validDomain, hcp, hca, hcb]
  exact sm2_domain

theorem vp_of_sm2 {k : PReg} (hG : readPoint u k = .affine sm2Gx sm2Gy) : VP u k := by
  rw [← validPoint_iff, validPoint, hcp, hca, hcb, hG]
  exact sm2_valid

end Sm2Curve

theorem readPoint_ecldsm2 (pd : PReg) (s : State) :
    readPoint (ended (writePoint (loadSm2Curve s) pd (.affine sm2Gx sm2Gy)) 0) pd = .affine sm2Gx sm2Gy :=
  readPoint_writePoint (loadSm2Curve s) pd _

/-- Settles O50: the domain loaded is SM2's, and Pd holds its G. -/
theorem ecldsm2LoadsAValidCurve : Obligations.Ecldsm2LoadsAValidCurve := fun pd s =>
  ⟨rfl, _, exec_ecldsm2 pd s, rfl, vd_of_sm2 rfl rfl rfl, vp_of_sm2 rfl rfl rfl (readPoint_ecldsm2 pd s)⟩

/-! ### The laws of R163 -/

theorem exec_ecmul_zero (pd p1 : PReg) (vk : VReg) (s : State) (hd : VD s) (h1 : VP s p1) (hk : s.v[vk] = 0) :
    exec (.ecmul pd p1 vk) s = .next (ended (writePoint s pd .inf) 0) := by
  have zeroFold := doubleAndAddIsTheKFoldSum (p s) (a s) (b s) 0 (readPoint s p1) s.cp.isLt (Nat.two_pow_pos 256)
    ((validDomain_iff s).mpr hd) ((validPoint_iff s p1).mpr h1)
  rw [exec_ecmul_of_valid pd p1 vk hd h1, toNat_eq_zero_iff.mpr hk, zeroFold]
  rfl

/-- On the SM2 curve G times n is O (R163). -/
theorem exec_ecmul_order (pd p1 : PReg) (vk : VReg) {u : State} (hcp : u.cp = sm2P) (hca : u.ca = sm2A)
    (hcb : u.cb = sm2B) (hG : readPoint u p1 = .affine sm2Gx sm2Gy) (hn : u.v[vk] = sm2N) :
    exec (.ecmul pd p1 vk) u = .next (ended (writePoint u pd .inf) 0) := by
  have hd := vd_of_sm2 hcp hca hcb
  have h1 := vp_of_sm2 hcp hca hcb hG
  rw [exec_ecmul_of_valid pd p1 vk hd h1, p, a, hcp, hca, hG, hn, sm2_order]

/-- Settles O48: the three laws. -/
theorem ecLawsOfR163 : Obligations.EcLawsOfR163 := by
  refine ⟨fun pd p1 s _ _ => exec_ecadd_self pd p1 s, exec_ecmul_zero, fun p0 s => ⟨_, exec_ecldsm2 p0 s, ?_⟩⟩
  intro pd p1 vk u hcp hca hcb hG hn
  exact exec_ecmul_order pd p1 vk hcp hca hcb (hG.trans (readPoint_ecldsm2 p0 s)) hn

end Sys2Proof.Proofs.EcCommands

/-! PROOF. The SM3 compression function: the rotation, the message expansion and the rounds (43_sm3.md R180 to R186). -/

namespace Sys2Proof.Proofs.Sm3Compression

open Sys2Proof.Machine

/-! ### The rotation (R180) -/

theorem rotl_getLsbD (x : Word) (n : Nat) {i : Nat} (hi : i < 32) :
    (rotl x n).getLsbD i = x.getLsbD ((i + (32 - n % 32)) % 32) := by
  rw [rotl, BitVec.getLsbD_rotateLeft]
  by_cases wraps : i < n % 32
  · have source : (i + (32 - n % 32)) % 32 = 32 - n % 32 + i := by omega
    simp [wraps, source]
  · have source : (i + (32 - n % 32)) % 32 = i - n % 32 := by omega
    simp [wraps, source, hi]

/-! ### The boolean functions and constants by round (R182, R183) -/

theorem sm3FF_sm3GG_of_le {j : Nat} (h : j ≤ 15) (x y z : Word) :
    sm3FF j x y z = x ^^^ y ^^^ z ∧ sm3GG j x y z = x ^^^ y ^^^ z :=
  have early : j < 16 := Nat.lt_succ_of_le h
  ⟨if_pos early, if_pos early⟩

theorem sm3FF_sm3GG_of_ge {j : Nat} (h : 16 ≤ j) (x y z : Word) :
    sm3FF j x y z = (x &&& y) ||| (x &&& z) ||| (y &&& z) ∧ sm3GG j x y z = (x &&& y) ||| (~~~x &&& z) :=
  have late : ¬ j < 16 := Nat.not_lt.mpr h
  ⟨if_neg late, if_neg late⟩

theorem sm3T_eq (j : Nat) : sm3T j = if j ≤ 15 then 0x79CC4519 else 0x7A879D8A :=
  if_congr Nat.lt_succ_iff rfl rfl

/-! ### The message expansion (R185) -/

@[simp] theorem sm3Extend_length (n : Nat) (p : List Word) : (sm3Extend n p).length = p.length + n := by
  induction n generalizing p with
  | zero => rfl
  | succ n ih =>
    rw [sm3Extend, ih, List.length_cons]
    omega

/-- The last word of an expansion comes from all the words before it. -/
theorem sm3Extend_succ (n : Nat) (p : List Word) :
    sm3Extend (n + 1) p = sm3NextW (sm3Extend n p) :: sm3Extend n p := by
  induction n generalizing p with
  | zero => rfl
  | succ n ih => exact ih (sm3NextW p :: p)

/-- A longer expansion keeps the words of a shorter one. -/
theorem sm3Extend_suffix {k n : Nat} (h : k ≤ n) (p : List Word) : sm3Extend k p <:+ sm3Extend n p := by
  induction n, h using Nat.le_induction with
  | base => exact List.suffix_rfl
  | succ n _ ih =>
    rw [sm3Extend_succ]
    exact ih.trans (List.suffix_cons _ _)

/-- Words kept latest first, as the expansion keeps them, and read in order. -/
theorem sm3W_reverse_of_suffix {q l : List Word} (h : q <:+ l) {i : Nat} (hi : i < q.length) :
    sm3W l.reverse i = sm3W q.reverse i := by
  obtain ⟨later, rfl⟩ := h
  rw [List.reverse_append]
  exact List.getD_append _ _ _ _ (by simpa using hi)

theorem getD_eq_sm3W_reverse {q : List Word} {k : Nat} (hk : k < q.length) :
    q.getD k 0 = sm3W q.reverse (q.length - 1 - k) := by
  rw [sm3W, List.getD_reverse _ (by omega)]
  congr 1
  omega

/-- The schedule starts with the block. -/
theorem sm3W_sm3Schedule_of_lt (m : Vector Word 16) (i : Fin 16) : sm3W (sm3Schedule m) i.val = m[i.val] := by
  have block : m.toList.reverse <:+ sm3Extend 52 m.toList.reverse := sm3Extend_suffix (Nat.zero_le 52) _
  rw [sm3Schedule, sm3W_reverse_of_suffix block (by simp), List.reverse_reverse, sm3W]
  simp

/-- Every later word of the schedule comes from the words 16, 9, 3, 13 and 6 places before it. -/
theorem sm3W_sm3Schedule_of_ge (m : Vector Word 16) {i : Nat} (hlo : 16 ≤ i) (hhi : i ≤ 67) :
    sm3W (sm3Schedule m) i =
      sm3P1 (sm3W (sm3Schedule m) (i - 16) ^^^ sm3W (sm3Schedule m) (i - 9) ^^^
        rotl (sm3W (sm3Schedule m) (i - 3)) 15) ^^^ rotl (sm3W (sm3Schedule m) (i - 13)) 7 ^^^
        sm3W (sm3Schedule m) (i - 6) := by
  obtain ⟨n, rfl⟩ := Nat.exists_eq_add_of_le hlo
  have before : (sm3Extend n m.toList.reverse).length = 16 + n := by simp
  have kept : sm3Extend (n + 1) m.toList.reverse <:+ sm3Extend 52 m.toList.reverse :=
    sm3Extend_suffix (by omega) _
  rw [sm3Extend_succ] at kept
  have next : sm3W (sm3Schedule m) (16 + n) = sm3NextW (sm3Extend n m.toList.reverse) := by
    rw [sm3Schedule, sm3W_reverse_of_suffix kept (by simp), List.reverse_cons, sm3W]
    simp
  have earlier (k : Nat) (hk : k < 16) :
      (sm3Extend n m.toList.reverse).getD k 0 = sm3W (sm3Schedule m) (16 + n - (k + 1)) := by
    rw [getD_eq_sm3W_reverse (by omega), before, sm3Schedule,
      sm3W_reverse_of_suffix ((List.suffix_cons _ _).trans kept) (by omega), Nat.sub_sub, Nat.add_comm 1]
  rw [next, sm3NextW, earlier 15 (by decide), earlier 8 (by decide), earlier 2 (by decide), earlier 12 (by decide),
    earlier 5 (by decide)]

/-! ### The compression (R186) -/

/-- Settles O52: the words are the schedule's, and the variables those after each number of rounds. -/
theorem compressionFollowsR186 : Obligations.CompressionFollowsR186 := by
  refine ⟨fun x n i hi => rotl_getLsbD x n hi, fun j x y z h => sm3FF_sm3GG_of_le h x y z,
    fun j x y z h _ => sm3FF_sm3GG_of_ge h x y z, fun _ => rfl, fun _ => rfl, fun v m => ?_⟩
  refine ⟨sm3W (sm3Schedule m), sm3Rounds (sm3Schedule m) (sm3Load v), sm3W_sm3Schedule_of_lt m,
    fun i hlo hhi => sm3W_sm3Schedule_of_ge m hlo hhi, rfl, fun j _ => ?_, rfl⟩
  rw [← sm3T_eq]
  exact ⟨_, _, _, _, rfl, rfl, rfl, rfl, rfl⟩

end Sys2Proof.Proofs.Sm3Compression

/-! PROOF. The SM3 commands: the padding (43_sm3.md R187), and SM3INIT, SM3BLK and SM3FIN (R188 to R191). -/

namespace Sys2Proof.Proofs.Sm3Commands

open Sys2Proof.Machine Sys2Proof.Statements
open Sys2Proof.Proofs.Layout

/-! ### Blocks of bytes (R69) -/

/-- The bytes of a word stand in it in order, the first highest. -/
theorem byteOf_wordOf (b : Nat → Byte) (t : Fin 4) : byteOf (wordOf (b 0) (b 1) (b 2) (b 3)) t = b t.val := by
  rw [byteOf, wordOf]
  fin_cases t
  all_goals
    repeat rw [BitVec.extractLsb'_append_eq_ite]
    simp

theorem byteOf_packedWord (b : List Byte) (j : Nat) (t : Fin 4) :
    byteOf (packedWord b j) t = b.getD (4 * j + t.val) 0 :=
  byteOf_wordOf (fun t => b.getD (4 * j + t) 0) t

theorem packBlock_toList_getElem? (b : List Byte) {j : Nat} (hj : j < 16) :
    (packBlock b).toList[j]? = some (packedWord b j) := by
  simp [packBlock, hj]

@[simp] theorem bufBytes_length (m : Vector Word 16) : (bufBytes m).length = 64 := by
  simp [bufBytes, bytesOf]

/-- Packing keeps the bytes of a block. -/
theorem bufBytes_packBlock {b : List Byte} (h : b.length = 64) : bufBytes (packBlock b) = b := by
  apply List.ext_getElem?
  intro i
  by_cases hi : i < 64
  · obtain ⟨j, t, rfl⟩ : ∃ (j : Nat) (t : Fin 4), i = 4 * j + t.val :=
      ⟨i / 4, ⟨i % 4, Nat.mod_lt i (by decide)⟩, (Nat.div_add_mod i 4).symm⟩
    have word : (packBlock b).toList[j]? = some (packedWord b j) := packBlock_toList_getElem? b (by omega)
    rw [bufBytes, flatMap_bytesOf_getElem?, word, Option.map_some, byteOf_packedWord,
      List.getD_eq_getElem _ _ (by omega), List.getElem?_eq_getElem (by omega)]
  · rw [List.getElem?_eq_none (by simpa using hi), List.getElem?_eq_none (by omega)]

/-! ### The padding (R187) -/

/-- A byte of a word of a 64-bit number, by its place in the number. -/
theorem byteOf_extractLsb' (n : BitVec 64) (k : Nat) (t : Fin 4) :
    byteOf (n.extractLsb' k 32) t = BitVec.ofNat 8 (n.toNat / 2 ^ (k + 8 * (3 - t.val))) := by
  apply BitVec.eq_of_getLsbD_eq
  intro i hi
  have inside : 8 * (3 - t.val) + i < 32 := by omega
  have place : k + (8 * (3 - t.val) + i) = i + (k + 8 * (3 - t.val)) := by omega
  rw [byteOf, BitVec.getLsbD_extractLsb', BitVec.getLsbD_extractLsb', BitVec.getLsbD_ofNat, Nat.testBit_div_two_pow,
    place]
  simp [hi, inside, BitVec.getLsbD]

/-- A 64-bit number as its eight digits in base 256, the highest first. -/
theorem lengthBytes_eq_map (n : BitVec 64) :
    lengthBytes n = (List.range 8).map fun t => BitVec.ofNat 8 (n.toNat / 2 ^ (8 * (7 - t))) := by
  simp only [lengthBytes, bytesOf, byteOf_extractLsb']
  rfl

theorem paddedTail_length (buf : Vector Word 16) {n : Nat} (hn : n ≤ 63) (bits : BitVec 64) :
    (paddedTail buf n bits).length = if n ≤ 55 then 64 else 128 := by
  have size : (lengthBytes bits).length = 8 := rfl
  simp only [paddedTail, padZeros, List.length_append, List.length_take, bufBytes_length, List.length_singleton,
    List.length_replicate, size]
  split <;> omega

theorem padBlocks_length (buf : Vector Word 16) (n : Nat) (bits : BitVec 64) :
    (padBlocks buf n bits).length = if n ≤ 55 then 1 else 2 := by
  unfold padBlocks
  split <;> rfl

/-- The blocks hold the padded tail. -/
theorem flatMap_bufBytes_padBlocks (buf : Vector Word 16) {n : Nat} (hn : n ≤ 63) (bits : BitVec 64) :
    (padBlocks buf n bits).flatMap bufBytes = paddedTail buf n bits := by
  have size := paddedTail_length buf hn bits
  unfold padBlocks
  split at size
  case isTrue one =>
    rw [if_pos one, List.flatMap_singleton, bufBytes_packBlock size]
  case isFalse two =>
    rw [if_neg two, List.flatMap_cons, List.flatMap_singleton, bufBytes_packBlock (by simp [size]),
      bufBytes_packBlock (by simp [size]), List.take_append_drop]

/-- The blocks depend on no byte of the buffer past the first `n`. -/
theorem padBlocks_congr {buf buf' : Vector Word 16} {n : Nat} (h : (bufBytes buf).take n = (bufBytes buf').take n)
    (bits : BitVec 64) : padBlocks buf n bits = padBlocks buf' n bits := by
  have tail : paddedTail buf n bits = paddedTail buf' n bits := by rw [paddedTail, h, paddedTail]
  rw [padBlocks, tail, padBlocks]

/-! ### SM3INIT (R188) -/

/-- Settles O51: SM3INIT commits its writes from every state. -/
theorem sm3initLoadsTheIv : Obligations.Sm3initLoadsTheIv := ⟨rfl, fun _ => rfl⟩

/-! ### The sequence error (R189, R190) -/

theorem exec_sm3blk (s : State) : exec .sm3blk s = .next (commit s (whenActive s (absorbBlock s))) := rfl

theorem exec_sm3fin (n : Len) (s : State) : exec (.sm3fin n) s = .next (commit s (whenActive s (finishHash s n))) := rfl

theorem commit_whenActive_of_inactive {s : State} (h : s.sm3Active = false) (t : State) :
    commit s (whenActive s t) = ended s 4 := by
  rw [whenActive, h, if_neg Bool.false_ne_true]
  rfl

theorem commit_whenActive_of_active {s : State} (h : s.sm3Active = true) (t : State) :
    commit s (whenActive s t) = ended t 0 := by
  rw [whenActive, if_pos h]
  rfl

/-! ### SM3BLK (R189) -/

/-- Settles O53: the block's writes, or the sequence error. -/
theorem sm3blkAbsorbsTheBlock : Obligations.Sm3blkAbsorbsTheBlock := by
  refine ⟨rfl, fun s => ⟨fun inactive => ?_, fun active => ?_⟩⟩
  · rw [exec_sm3blk, commit_whenActive_of_inactive inactive]
  · rw [exec_sm3blk, commit_whenActive_of_active active]
    rfl

/-! ### SM3FIN (R190) -/

theorem finalCount_eq (s : State) (n : Len) : finalCount s n = BitVec.ofNat 64 (s.sm3Cnt.toNat + n.val) := by
  rw [finalCount, BitVec.ofNat_add, BitVec.ofNat_toNat, BitVec.setWidth_eq]

/-- The bit length of the message (R187). -/
theorem bitLength_toNat (s : State) (n : Len) :
    (8 * finalCount s n).toNat = 8 * ((s.sm3Cnt.toNat + n.val) % 2 ^ 64) % 2 ^ 64 := by
  rw [finalCount_eq, BitVec.toNat_mul, BitVec.toNat_ofNat]
  rfl

/-- Settles O54: the blocks are those of the padding, and their bytes the padded tail. -/
theorem sm3finPadsAndFinishes : Obligations.Sm3finPadsAndFinishes := by
  intro n s
  refine ⟨rfl, fun inactive => ?_, fun active => ⟨padBlocks s.sm3Buf n.val (8 * finalCount s n), ?_, ?_, ?_⟩⟩
  · rw [exec_sm3fin, commit_whenActive_of_inactive inactive]
  · exact padBlocks_length _ _ _
  · rw [flatMap_bufBytes_padBlocks _ (Nat.le_of_lt_succ n.isLt), paddedTail, lengthBytes_eq_map, bitLength_toNat,
      padZeros]
  · rw [exec_sm3fin, commit_whenActive_of_active active, ← finalCount_eq]
    rfl

/-! ### The context of a hash computation (R191) -/

/-- Two states hold the same running hash, byte count and ACTIVE. -/
structure SameContext (s s' : State) : Prop where
  sm3V : s.sm3V = s'.sm3V
  sm3Cnt : s.sm3Cnt = s'.sm3Cnt
  sm3Active : s.sm3Active = s'.sm3Active

theorem sameContext_absorbBlock {s s' : State} (h : SameContext s s') (buf : s.sm3Buf = s'.sm3Buf) :
    SameContext (absorbBlock s) (absorbBlock s') where
  sm3V := by rw [absorbBlock_sm3V, absorbBlock_sm3V, h.sm3V, buf]
  sm3Cnt := congrArg (· + 64) h.sm3Cnt
  sm3Active := h.sm3Active

theorem sameContext_finishHash {s s' : State} (h : SameContext s s') {n : Len}
    (buf : (bufBytes s.sm3Buf).take n.val = (bufBytes s'.sm3Buf).take n.val) :
    SameContext (finishHash s n) (finishHash s' n) := by
  have count : finalCount s n = finalCount s' n := congrArg (· + BitVec.ofNat 64 n.val) h.sm3Cnt
  refine ⟨?_, count, rfl⟩
  rw [finishHash_sm3V, finishHash_sm3V, h.sm3V, count, padBlocks_congr buf]

/-- From the same context both commands fail, or both commit their writes. -/
theorem commit_whenActive_congr {s s' t t' : State} (h : SameContext s s') (writes : SameContext t t') :
    SameContext (commit s (whenActive s t)) (commit s' (whenActive s' t')) ∧
      (commit s (whenActive s t)).err = (commit s' (whenActive s' t')).err := by
  obtain ⟨hv, hcnt, hactive⟩ := h
  obtain ⟨wv, wcnt, wactive⟩ := writes
  cases active : s.sm3Active with
  | true =>
    rw [commit_whenActive_of_active active, commit_whenActive_of_active (hactive ▸ active)]
    exact ⟨⟨wv, wcnt, wactive⟩, rfl⟩
  | false =>
    rw [commit_whenActive_of_inactive active, commit_whenActive_of_inactive (hactive ▸ active)]
    exact ⟨⟨hv, hcnt, hactive⟩, rfl⟩

/-- Settles O55: equal contexts have equal writes. -/
theorem sm3ResultsDependOnTheContext : Obligations.Sm3ResultsDependOnTheContext := by
  intro s s' hv hcnt hactive
  have same : SameContext s s' := ⟨hv, hcnt, hactive⟩
  refine ⟨fun buf => ?_, fun n buf => ?_⟩
  · obtain ⟨⟨tv, tcnt, tactive⟩, err⟩ := commit_whenActive_congr same (sameContext_absorbBlock same buf)
    exact ⟨_, _, exec_sm3blk s, exec_sm3blk s', tv, tcnt, tactive, err⟩
  · obtain ⟨⟨tv, tcnt, tactive⟩, err⟩ := commit_whenActive_congr same (sameContext_finishHash same buf)
    exact ⟨_, _, exec_sm3fin n s, exec_sm3fin n s', tv, tcnt, tactive, err⟩

end Sys2Proof.Proofs.Sm3Commands

/-! PROOF. The SM4 S-box, the round functions and the key-schedule constants (44_sm4.md R210 to R214). -/

namespace Sys2Proof.Proofs.Sm4Rounds

open Sys2Proof.Machine Sys2Proof.Statements
open Sys2Proof.Proofs.Sm3Commands

/-! ### The S-box (R210) -/

theorem sbox_eq_sboxRows (r c : Fin 16) :
    sbox (BitVec.ofNat 8 (16 * r.val + c.val)) = (sboxRows[r]).extractLsb' (8 * (15 - c.val)) 8 := by
  decide +revert +kernel

theorem sboxTable_length : sboxTable.length = 256 := by decide +kernel

/-- A set of bytes as a number: bit y stands for byte y. -/
def byteSet : List Byte → Nat
  | [] => 0
  | b :: l => 2 ^ b.toNat ||| byteSet l

theorem testBit_byteSet (l : List Byte) (y : Byte) : (byteSet l).testBit y.toNat = true ↔ y ∈ l := by
  induction l with
  | nil => simp [byteSet]
  | cons b l ih => simp [byteSet, Nat.testBit_two_pow, ih, BitVec.toNat_inj, eq_comm (a := b)]

theorem byteSet_sboxTable : byteSet sboxTable = 2 ^ 256 - 1 := by decide +kernel

theorem mem_sboxTable (y : Byte) : y ∈ sboxTable := by
  rw [← testBit_byteSet, byteSet_sboxTable, Nat.testBit_two_pow_sub_one]
  exact decide_eq_true y.isLt

theorem sbox_surjective : Function.Surjective sbox := by
  intro y
  obtain ⟨n, hn, rfl⟩ := List.getElem_of_mem (mem_sboxTable y)
  refine ⟨BitVec.ofNat 8 n, ?_⟩
  have place : (BitVec.ofNat 8 n).toNat = n := Nat.mod_eq_of_lt (hn.trans_eq sboxTable_length)
  rw [sbox, place, List.getD_eq_getElem _ _ hn]

/-- Every byte is a value of the S-box, so no two bytes share one. -/
theorem sbox_injective : Function.Injective sbox := Finite.injective_iff_surjective.mpr sbox_surjective

/-! ### The round functions (R211, R212) -/

theorem byteOf_sm4Tau (x : Word) (t : Fin 4) : byteOf (sm4Tau x) t = sbox (byteOf x t) := by
  have place : Fin.ofNat 4 t.val = t := Fin.ofNat_val_eq_self t
  have bytes := byteOf_wordOf (fun n => sbox (byteOf x (Fin.ofNat 4 n))) t
  rwa [place] at bytes

/-- Settles O60: the table holds every byte, and T and T' are their definitions. -/
theorem sm4RoundFunctions : Obligations.Sm4RoundFunctions :=
  ⟨sbox_eq_sboxRows, fun _ _ h => sbox_injective h, byteOf_sm4Tau, fun _ => rfl, fun _ => rfl⟩

/-! ### The key-schedule constants (R214) -/

theorem toNat_append_eq_add {m n : Nat} (x : BitVec m) (y : BitVec n) :
    (x ++ y).toNat = x.toNat * 2 ^ n + y.toNat := by
  rw [BitVec.toNat_append, ← Nat.shiftLeft_add_eq_or_of_lt y.isLt, Nat.shiftLeft_eq]

theorem wordOf_toNat (b0 b1 b2 b3 : Byte) :
    (wordOf b0 b1 b2 b3).toNat = b0.toNat * 2 ^ 24 + b1.toNat * 2 ^ 16 + b2.toNat * 2 ^ 8 + b3.toNat := by
  simp only [wordOf, toNat_append_eq_add]
  omega

theorem sm4CK_eq (i : Nat) :
    sm4CK i = BitVec.ofNat 32 ((4 * i) * 7 % 256 * 2 ^ 24 + (4 * i + 1) * 7 % 256 * 2 ^ 16 +
      (4 * i + 2) * 7 % 256 * 2 ^ 8 + (4 * i + 3) * 7 % 256) := by
  have bytes : (sm4CK i).toNat = _ := wordOf_toNat ..
  apply BitVec.eq_of_toNat_eq
  rw [bytes, BitVec.toNat_ofNat]
  simp only [ckByte, BitVec.toNat_ofNat]
  omega

end Sys2Proof.Proofs.Sm4Rounds

/-! PROOF. The SM4 commands: the key schedule (44_sm4.md R215, R217), the block transform (R216, R218, R219) and its
round trip (R220). -/

namespace Sys2Proof.Proofs.Sm4Commands

open Sys2Proof.Machine Sys2Proof.Statements
open Sys2Proof.Proofs.Sm4Rounds

/-! ### SM4KEY (R215, R217) -/

/-- Every window of the key schedule starts one word later than the one before, so a round's newest word is the oldest
four rounds on. -/
theorem keyWindow_w0_add_four (k : Quad) (i : Nat) :
    (keyWindow k (i + 4)).w0 = (keyWindow k i).w0 ^^^ sm4T' ((keyWindow k (i + 1)).w0 ^^^
      (keyWindow k (i + 2)).w0 ^^^ (keyWindow k (i + 3)).w0 ^^^ sm4CK i) := rfl

theorem roundKey_eq_w0 (k : Quad) (i : Nat) : roundKey k i = (keyWindow k (i + 4)).w0 := rfl

theorem exec_sm4key (s : State) : exec .sm4key s = .next (ended (expandKey s) 0) := rfl

/-- Settles O56: K(i) is the oldest word of the window after i rounds. -/
theorem sm4keyExpandsTheKey : Obligations.Sm4keyExpandsTheKey := by
  refine ⟨rfl, fun s => ⟨fun i => (keyWindow (quadOf s.sm4Key) i).w0, rfl, rfl, rfl, rfl, fun i _ => ?_, ?_⟩⟩
  · rw [← sm4CK_eq]
    exact keyWindow_w0_add_four _ i
  · exact exec_sm4key s

/-! ### The words of the block transform (R216) -/

/-- The window after n rounds, 0 standing for a round key past the last. -/
def blockWindow (rk : List Word) (x : Quad) : Nat → Quad
  | 0 => x
  | n + 1 => rollQuad sm4T (blockWindow rk x n) (rk.getD n 0)

theorem blockWindow_w0_add_four (rk : List Word) (x : Quad) (i : Nat) :
    (blockWindow rk x (i + 4)).w0 = (blockWindow rk x i).w0 ^^^ sm4T ((blockWindow rk x (i + 1)).w0 ^^^
      (blockWindow rk x (i + 2)).w0 ^^^ (blockWindow rk x (i + 3)).w0 ^^^ rk.getD i 0) := rfl

theorem blockRounds_concat (rk : List Word) (k : Word) (x : Quad) :
    blockRounds (rk ++ [k]) x = rollQuad sm4T (blockRounds rk x) k :=
  List.foldl_concat ..

theorem blockRounds_take (rk : List Word) (x : Quad) {n : Nat} (hn : n ≤ rk.length) :
    blockRounds (rk.take n) x = blockWindow rk x n := by
  induction n with
  | zero => rfl
  | succ n ih =>
    rw [List.take_succ_eq_append_getElem hn, blockRounds_concat, ih (Nat.le_of_succ_le hn), blockWindow,
      List.getD_eq_getElem]

theorem blockRounds_eq_blockWindow (rk : List Word) (x : Quad) : blockRounds rk x = blockWindow rk x rk.length := by
  rw [← blockRounds_take rk x le_rfl, List.take_length]

theorem blockTransform_eq {rk : List Word} (h : rk.length = 32) (x : Quad) :
    blockTransform rk x =
      #v[(blockWindow rk x 35).w0, (blockWindow rk x 34).w0, (blockWindow rk x 33).w0, (blockWindow rk x 32).w0] := by
  rw [blockTransform, blockRounds_eq_blockWindow, h]
  rfl

theorem blockWindow_w0_quadOf (rk : List Word) (x : Vector Word 4) (i : Fin 4) :
    (blockWindow rk (quadOf x) i.val).w0 = x[i.val] := by
  fin_cases i <;> rfl

/-! ### SM4ENC and SM4DEC (R218, R219) -/

theorem exec_sm4enc (s : State) : exec .sm4enc s = .next (commit s (cryptBlock s s.sm4Rk.toList)) := rfl

theorem exec_sm4dec (s : State) : exec .sm4dec s = .next (commit s (cryptBlock s s.sm4Rk.toList.reverse)) := rfl

theorem commit_cryptBlock_of_noKey {s : State} (h : s.keyValid = false) (rk : List Word) :
    commit s (cryptBlock s rk) = ended s 5 := by
  rw [cryptBlock, h, if_neg Bool.false_ne_true]
  rfl

theorem commit_cryptBlock_of_key {s : State} (h : s.keyValid = true) (rk : List Word) :
    commit s (cryptBlock s rk) = ended { s with sm4Dout := blockTransform rk (quadOf s.sm4Din) } 0 := by
  rw [cryptBlock, if_pos h]
  rfl

/-- With a key the completion writes the four last words of the sequence that R216 rolls under the round keys. -/
theorem commit_cryptBlock_words {s : State} (h : s.keyValid = true) {rk : List Word} {key : Fin 32 → Word}
    (length : rk.length = 32) (keys : ∀ i : Fin 32, rk.getD i.val 0 = key i) :
    ∃ x : Nat → Word, (∀ i : Fin 4, x i.val = s.sm4Din[i.val]) ∧
      (∀ i : Fin 32, x (i.val + 4) =
        x i.val ^^^ sm4T (x (i.val + 1) ^^^ x (i.val + 2) ^^^ x (i.val + 3) ^^^ key i)) ∧
      commit s (cryptBlock s rk) = ended { s with sm4Dout := #v[x 35, x 34, x 33, x 32] } 0 := by
  refine ⟨fun i => (blockWindow rk (quadOf s.sm4Din) i).w0, blockWindow_w0_quadOf rk s.sm4Din, fun i => ?_, ?_⟩
  · rw [← keys i]
    exact blockWindow_w0_add_four ..
  · rw [commit_cryptBlock_of_key h, blockTransform_eq length]

/-- Settles O57: the round keys in order. -/
theorem sm4encTransformsTheBlock : Obligations.Sm4encTransformsTheBlock := by
  refine ⟨rfl, fun s => ⟨fun noKey => ?_, fun key => ?_⟩⟩
  · rw [exec_sm4enc, commit_cryptBlock_of_noKey noKey]
  · have inOrder (i : Fin 32) : s.sm4Rk.toList.getD i.val 0 = s.sm4Rk[i.val] := by simp
    obtain ⟨x, block, rounds, completes⟩ := commit_cryptBlock_words key (by simp) inOrder
    exact ⟨x, block, rounds, by rw [exec_sm4enc, completes]⟩

/-- Settles O58: the round keys reversed. -/
theorem sm4decTransformsTheBlock : Obligations.Sm4decTransformsTheBlock := by
  refine ⟨rfl, fun s => ⟨fun noKey => ?_, fun key => ?_⟩⟩
  · rw [exec_sm4dec, commit_cryptBlock_of_noKey noKey]
  · have reversed (i : Fin 32) : s.sm4Rk.toList.reverse.getD i.val 0 = s.sm4Rk[31 - i.val] := by
      rw [List.getD_reverse _ (by simp), List.getD_eq_getElem _ _ (by simp; omega)]
      simp
    obtain ⟨x, block, rounds, completes⟩ := commit_cryptBlock_words key (by simp) reversed
    exact ⟨x, block, rounds, by rw [exec_sm4dec, completes]⟩

/-! ### The round trip (R220) -/

/-- The window in reverse order, as the block transform ends. -/
def reverseQuad (q : Quad) : Quad := ⟨q.w3, q.w2, q.w1, q.w0⟩

/-- A round undoes itself on the reversed window. -/
theorem rollQuad_reverseQuad_rollQuad (f : Word → Word) (q : Quad) (k : Word) :
    rollQuad f (reverseQuad (rollQuad f q k)) k = reverseQuad q := by
  have newest : q.w0 ^^^ f (q.w1 ^^^ q.w2 ^^^ q.w3 ^^^ k) ^^^ f (q.w3 ^^^ q.w2 ^^^ q.w1 ^^^ k) = q.w0 := by
    rw [BitVec.xor_comm q.w3, BitVec.xor_comm (q.w2 ^^^ q.w3), ← BitVec.xor_assoc, BitVec.xor_assoc q.w0,
      BitVec.xor_self, BitVec.xor_zero]
  simp only [rollQuad, reverseQuad, newest]

/-- Round i of the reversed keys undoes round 31 - i. -/
theorem blockRounds_reverse (rk : List Word) (x : Quad) :
    blockRounds rk.reverse (reverseQuad (blockRounds rk x)) = reverseQuad x := by
  induction rk generalizing x with
  | nil => rfl
  | cons k rk ih =>
    have first : blockRounds (k :: rk) x = blockRounds rk (rollQuad sm4T x k) := rfl
    rw [List.reverse_cons, blockRounds_concat, first, ih, rollQuad_reverseQuad_rollQuad]

theorem quadOf_blockTransform (rk : List Word) (x : Quad) :
    quadOf (blockTransform rk x) = reverseQuad (blockRounds rk x) := rfl

theorem blockTransform_reverse (rk : List Word) (x : Vector Word 4) :
    blockTransform rk.reverse (quadOf (blockTransform rk (quadOf x))) = x := by
  rw [blockTransform, quadOf_blockTransform, blockRounds_reverse]
  ext i hi
  interval_cases i <;> rfl

/-- Two completions under a key, the second from the block that the first wrote and under the reversed round keys, give
the first block back. -/
theorem commit_cryptBlock_reverse {u w : State} {rk : List Word} (hu : u.keyValid = true) (hw : w.keyValid = true)
    (h : w.sm4Din = (commit u (cryptBlock u rk)).sm4Dout) :
    (commit w (cryptBlock w rk.reverse)).sm4Dout = u.sm4Din := by
  rw [commit_cryptBlock_of_key hu] at h
  rw [commit_cryptBlock_of_key hw, h]
  exact blockTransform_reverse rk u.sm4Din

/-- Settles O59: the round trip holds under any round keys, SM4KEY's among them. -/
theorem sm4RoundTrips : Obligations.Sm4RoundTrips := by
  intro s
  refine ⟨_, exec_sm4key s, expandKey_keyValid s, fun u keysU hu => ⟨_, exec_sm4enc u, ?_⟩,
    fun u keysU hu => ⟨_, exec_sm4dec u, ?_⟩⟩
  · intro w keysW hw block
    refine ⟨_, exec_sm4dec w, ?_⟩
    rw [keysW, ← keysU]
    exact commit_cryptBlock_reverse hu hw block
  · intro w keysW hw block
    refine ⟨_, exec_sm4enc w, ?_⟩
    rw [keysW, ← keysU, ← List.reverse_reverse u.sm4Rk.toList]
    exact commit_cryptBlock_reverse hu hw block

end Sys2Proof.Proofs.Sm4Commands

/-! PROOF. The resets: their effect, the accesses held off while rst_n = 0, and the state they leave
(70_reset_and_hazards.md R271 to R273). -/

namespace Sys2Proof.Proofs.Reset

open Sys2Proof.Machine Sys2Proof.Safety Sys2Proof.Statements
open Sys2Proof.Proofs.Port Sys2Proof.Proofs.Lifecycle Sys2Proof.Proofs.EcCommands
open Sys2Proof.Proofs.Sm3Commands Sys2Proof.Proofs.Sm4Commands

/-! ### The effect of a reset (R271) -/

theorem resetRegs_eq_clearedState (s : State) : resetRegs s = clearedState s s.rstN := rfl

/-- SRST wins over the IE bit of the same write. -/
theorem writeReg_ctrl_of_srst (s : State) {w : Word} (srst : w.getLsbD 1 = true) :
    writeReg s .ctrl w = resetRegs s :=
  if_pos srst

/-- A soft reset leaves the pin at 1. -/
theorem hostAccess_srst {s : State} {w : Word} (hr : Running s) (srst : w.getLsbD 1 = true) :
    hostAccess s (hostWR 0x00C w) = clearedState s true := by
  rw [hostAccess_hostWR hr (r := .ctrl) rfl, writeReg_ctrl_of_srst s srst, resetRegs_eq_clearedState, hr]

theorem setRstPin_low (s : State) : setRstPin s false = clearedState s false := rfl

/-- Settles O28: the soft reset, the hard reset, then ID and irq. -/
theorem resetClearsEverything : Obligations.ResetClearsEverything :=
  ⟨fun _ _ => hostAccess_srst, setRstPin_low, fun _ _ => ⟨rfl, rfl⟩⟩

/-! ### While rst_n = 0 (R272) -/

theorem hostAccess_eq_accessInReset {s : State} (hr : s.rstN = false) (x : Access) :
    hostAccess s x = accessInReset s x :=
  if_neg (Bool.eq_false_iff.mp hr)

theorem hostAccess_read_of_reset {s : State} {x : Access} (hr : s.rstN = false) (hk : x.kind = .read) :
    hostAccess s x = { s with reply := some 0 } := by
  rw [hostAccess_eq_accessInReset hr, accessInReset, hk]

theorem hostAccess_write_of_reset {s : State} {x : Access} (hr : s.rstN = false) (hk : x.kind = .write) :
    hostAccess s x = s := by
  rw [hostAccess_eq_accessInReset hr, accessInReset, hk]

theorem engineTurn_of_reset {s : State} (hr : s.rstN = false) : engineTurn s = .next s :=
  if_neg (by rw [engineReady, hr, Bool.false_and]; exact Bool.false_ne_true)

/-- Settles O29: a read, a write, and the engine's turn. -/
theorem accessesInResetAreNotTaken : Obligations.AccessesInResetAreNotTaken :=
  fun _ _ hr => ⟨hostAccess_read_of_reset hr, hostAccess_write_of_reset hr, engineTurn_of_reset hr⟩

/-! ### After a reset (R273) -/

/-- 0 is no prime, so CP = 0 gives no valid domain (42_ec_point.md R151). -/
theorem not_vd_of_cp_eq_zero {s : State} (hcp : s.cp = 0) : ¬ VD s := by
  rintro ⟨prime, -⟩
  rw [p, hcp] at prime
  exact Nat.not_prime_zero prime

/-- Settles O30: with nothing in flight the reset state waits, and ACTIVE, KEYVALID and CP are 0, for which
the rules of the commands give the codes. -/
theorem resetStateWaitsAndRefuses : Obligations.ResetStateWaitsAndRefuses := by
  have inactive : State.reset.sm3Active = false := rfl
  have noKey : State.reset.keyValid = false := rfl
  have noPrime : State.reset.cp = 0 := rfl
  obtain ⟨-, sm3blk⟩ := sm3blkAbsorbsTheBlock
  obtain ⟨-, sm4enc⟩ := sm4encTransformsTheBlock
  obtain ⟨-, sm4dec⟩ := sm4decTransformsTheBlock
  refine ⟨idleEngineWaits State.reset [] rfl (.inr ⟨rfl, rfl⟩), (sm3blk _).1 inactive, fun n => ?_,
    (sm4enc _).1 noKey, (sm4dec _).1 noKey, fun k => ?_, not_vd_of_cp_eq_zero noPrime⟩
  · obtain ⟨-, fails, -⟩ := sm3finPadsAndFinishes n State.reset
    exact fails inactive
  · obtain ⟨-, fails, -⟩ := ecchkWritesTheThreeBits k State.reset
    exact fails noPrime

end Sys2Proof.Proofs.Reset
